-- ==== Sys2Proof/Word.lean ====
section
/-! DEFINITION. The one data type of this hardware: every datum is an unsigned byte (spec 00_scope.md section 5, rule R98). -/

namespace Sys2Proof

/-- `u8`: an unsigned byte, bits numbered 7 (most significant) down to 0 (00_scope.md section 5). -/
abbrev Byte := BitVec 8

end Sys2Proof
end

