-- ==== Sys2Proof/Syntax.lean ====
section
/-! DEFINITION. The instructions: one constructor per row of spec/opcode_table.json. -/

namespace Sys2Proof

/-- The rows of the opcode table. A chip address is an unbounded signed integer (30_encoding.md R52,
92_eei_decisions.md D4); opcode and data are bytes (00_scope.md R7). The fifteen register rows are the
register writes of 40_register_writes.md: operands `c` (chip) and `d` (data), the register fixed by the row. -/
inductive Instr where
  /-- `WR addr, op, data` (R90). -/
  | wr (addr : Int) (op data : Byte)
  /-- `MODE m` (R91): `true` is common-anode. -/
  | mode (m : Bool)
  /-- `XMIT(c, op, d)`, the stage B micro-operation (R110). -/
  | xmit (c : Int) (op d : Byte)
  /-- NOOP, opcode 0 (R71). -/
  | noop (c : Int) (d : Byte)
  /-- DIGIT0, opcode 1 (R72). -/
  | digit0 (c : Int) (d : Byte)
  /-- DIGIT1, opcode 2 (R73). -/
  | digit1 (c : Int) (d : Byte)
  /-- DIGIT2, opcode 3 (R74). -/
  | digit2 (c : Int) (d : Byte)
  /-- DIGIT3, opcode 4 (R75). -/
  | digit3 (c : Int) (d : Byte)
  /-- DIGIT4, opcode 5 (R76). -/
  | digit4 (c : Int) (d : Byte)
  /-- DIGIT5, opcode 6 (R77). -/
  | digit5 (c : Int) (d : Byte)
  /-- DIGIT6, opcode 7 (R78). -/
  | digit6 (c : Int) (d : Byte)
  /-- DIGIT7, opcode 8 (R79). -/
  | digit7 (c : Int) (d : Byte)
  /-- DECODE-MODE, opcode 9 (R80). -/
  | decodeMode (c : Int) (d : Byte)
  /-- INTENSITY, opcode 10 (R81). -/
  | intensity (c : Int) (d : Byte)
  /-- SCAN-LIMIT, opcode 11 (R82). -/
  | scanLimit (c : Int) (d : Byte)
  /-- SHUTDOWN, opcode 12 (R83). -/
  | shutdown (c : Int) (d : Byte)
  /-- DISPLAY-TEST, opcode 15 (R84). -/
  | displayTest (c : Int) (d : Byte)
  /-- An opcode the document defines no register for: 13, 14, 16..255 (R85). -/
  | undefined (c : Int) (op d : Byte)
  deriving DecidableEq, Repr

end Sys2Proof
end

