-- ==== Sys2Proof/WellFormed.lean ====
section
/-! DEFINITION. Which instruction terms the formats of 30_encoding.md can carry. -/

namespace Sys2Proof

/-- The chip address fits the signed 8-bit ADDR field (R52, D4: -128..127). -/
def addrFits (a : Int) : Bool := decide (-128 ≤ a ∧ a ≤ 127)

/-- The document defines no register at this opcode (R57, R85): 13, 14 and 16..255. -/
def isUndefinedOpcode (op : Byte) : Bool :=
  decide (op.toNat = 13 ∨ op.toNat = 14 ∨ 16 ≤ op.toNat)

/-- An instruction its format can carry. `XMIT` has no command word (R110), so nothing about it is syntactic: its
precondition `0 <= c < N` (R119) is on the state. -/
def wellFormed : Instr → Bool
  | .wr addr _ _ => addrFits addr
  | .mode _ => true
  | .xmit _ _ _ => true
  | .noop c _ => addrFits c
  | .digit0 c _ => addrFits c
  | .digit1 c _ => addrFits c
  | .digit2 c _ => addrFits c
  | .digit3 c _ => addrFits c
  | .digit4 c _ => addrFits c
  | .digit5 c _ => addrFits c
  | .digit6 c _ => addrFits c
  | .digit7 c _ => addrFits c
  | .decodeMode c _ => addrFits c
  | .intensity c _ => addrFits c
  | .scanLimit c _ => addrFits c
  | .shutdown c _ => addrFits c
  | .displayTest c _ => addrFits c
  | .undefined c op _ => addrFits c && isUndefinedOpcode op

end Sys2Proof
end

