-- ==== Sys2Proof/Decode.lean ====
section
/-! DEFINITION. The decoder of the command word CW32 and of the register pair PAIR16 (30_encoding.md R50 to R55),
the encoder, the opcode table's numbering, and the assembler spelling (R62). -/

namespace Sys2Proof

/-- What the machine is given to decode.
`word`: the 32-bit command word CW32 on the command port (R51).
`pair`: a register write by the register's name: the 16 bits the addressed chip receives (PAIR16, R55) and the ADDR
field of CW32 that says which chip (DESIGN CHOICE, log 7).
`request`: a stage B request `XMIT(c, op, d)`, which has no command word (R104, R110; log 8). -/
inductive Encoded where
  | word (w : BitVec 32)
  | pair (addr : BitVec 8) (w : BitVec 16)
  | request (c : Int) (op d : Byte)
  deriving DecidableEq, Repr

/-- Why a command word is reserved (R54). -/
inductive DecodeError where
  /-- KIND is 2..15. -/
  | reservedKind (kind : BitVec 4)
  /-- KIND is 0 (`WR`) and RSV is not 0. -/
  | reservedBits (rsv : BitVec 4)
  /-- KIND is 1 (`MODE`) and one of bits 27:1 is not 0. -/
  | modeBits (bits : BitVec 27)
  deriving DecidableEq, Repr

/-- KIND, bits 31:28 (R51). -/
def kindField (w : BitVec 32) : BitVec 4 := w.extractLsb' 28 4

/-- RSV, bits 27:24 (R51). -/
def rsvField (w : BitVec 32) : BitVec 4 := w.extractLsb' 24 4

/-- ADDR, bits 23:16 (R51). -/
def addrField (w : BitVec 32) : BitVec 8 := w.extractLsb' 16 8

/-- OPCODE, bits 15:8 (R51). -/
def opcodeField (w : BitVec 32) : Byte := w.extractLsb' 8 8

/-- DATA, bits 7:0 (R51). -/
def dataField (w : BitVec 32) : Byte := w.extractLsb' 0 8

/-- The bits a `MODE` word must hold at 0: 27:1 (R53). -/
def modeZeroField (w : BitVec 32) : BitVec 27 := w.extractLsb' 1 27

/-- M, bit 0 of a `MODE` word (R53). -/
def modeBit (w : BitVec 32) : Bool := w.getLsbD 0

/-- `addr = sext(ADDR)` (R52). -/
def signedAddr (a : BitVec 8) : Int := a.toInt

/-- CW32 (R51 to R54). -/
def decodeWord (w : BitVec 32) : Except DecodeError Instr :=
  if kindField w = 0#4 then
    if rsvField w = 0#4 then .ok (.wr (signedAddr (addrField w)) (opcodeField w) (dataField w))
    else .error (.reservedBits (rsvField w))
  else if kindField w = 1#4 then
    if modeZeroField w = 0#27 then .ok (.mode (modeBit w))
    else .error (.modeBits (modeZeroField w))
  else .error (.reservedKind (kindField w))

/-- The register an opcode names (R57): every one of the 256 opcodes has a row (R59, R85). -/
def registerWriteInstr (c : Int) (op d : Byte) : Instr :=
  if op = 0x00#8 then .noop c d
  else if op = 0x01#8 then .digit0 c d
  else if op = 0x02#8 then .digit1 c d
  else if op = 0x03#8 then .digit2 c d
  else if op = 0x04#8 then .digit3 c d
  else if op = 0x05#8 then .digit4 c d
  else if op = 0x06#8 then .digit5 c d
  else if op = 0x07#8 then .digit6 c d
  else if op = 0x08#8 then .digit7 c d
  else if op = 0x09#8 then .decodeMode c d
  else if op = 0x0A#8 then .intensity c d
  else if op = 0x0B#8 then .scanLimit c d
  else if op = 0x0C#8 then .shutdown c d
  else if op = 0x0F#8 then .displayTest c d
  else .undefined c op d

/-- The opcode byte of a pair, bits 15:8, first on the wire (R55). -/
def pairOpcode (w : BitVec 16) : Byte := w.extractLsb' 8 8

/-- The data byte of a pair, bits 7:0, second on the wire (R55). -/
def pairData (w : BitVec 16) : Byte := w.extractLsb' 0 8

/-- The decoder: total, and rejecting by name. -/
def decode : Encoded → Except DecodeError Instr
  | .word w => decodeWord w
  | .pair a w => .ok (registerWriteInstr (signedAddr a) (pairOpcode w) (pairData w))
  | .request c op d => .ok (.xmit c op d)

/-- The ADDR field of an address. -/
def addrBits (a : Int) : BitVec 8 := BitVec.ofInt 8 a

/-- The `WR` word `0000 0000 aaaaaaaa oooooooo dddddddd` (R52). -/
def encodeWr (addr : Int) (op data : Byte) : BitVec 32 := (((0x00#8 ++ addrBits addr) ++ op) ++ data)

/-- The `MODE` word `0001 0000 00000000 00000000 0000000m` (R53). -/
def encodeMode (m : Bool) : BitVec 32 := if m then 0x10000001#32 else 0x10000000#32

/-- The pair `oooooooo dddddddd` for chip `c` (R55). -/
def encodePair (c : Int) (op d : Byte) : Encoded := .pair (addrBits c) (op ++ d)

/-- The words of a well-formed instruction, from the patterns of R52, R53 and R71 to R85. -/
def encode : Instr → Encoded
  | .wr addr op data => .word (encodeWr addr op data)
  | .mode m => .word (encodeMode m)
  | .xmit c op d => .request c op d
  | .noop c d => encodePair c 0x00#8 d
  | .digit0 c d => encodePair c 0x01#8 d
  | .digit1 c d => encodePair c 0x02#8 d
  | .digit2 c d => encodePair c 0x03#8 d
  | .digit3 c d => encodePair c 0x04#8 d
  | .digit4 c d => encodePair c 0x05#8 d
  | .digit5 c d => encodePair c 0x06#8 d
  | .digit6 c d => encodePair c 0x07#8 d
  | .digit7 c d => encodePair c 0x08#8 d
  | .decodeMode c d => encodePair c 0x09#8 d
  | .intensity c d => encodePair c 0x0A#8 d
  | .scanLimit c d => encodePair c 0x0B#8 d
  | .shutdown c d => encodePair c 0x0C#8 d
  | .displayTest c d => encodePair c 0x0F#8 d
  | .undefined c op d => encodePair c op d

/-- An instruction of the opcode table from its bits, as the table numbers them. A CW32 row has 32 bits. A PAIR16 row
has 16 bits, and the address field above them is 0: chip 0 (log 7). -/
def encodedOfTable (nbits w : Nat) : Option Encoded :=
  if nbits = 32 then some (.word (BitVec.ofNat 32 w))
  else if nbits = 16 then some (.pair 0#8 (BitVec.ofNat 16 w))
  else none

/-- What the decoder reads from an instruction of the opcode table. -/
def decodeTableWord (nbits w : Nat) : Option Instr :=
  match encodedOfTable nbits w with
  | none => none
  | some e =>
    match decode e with
    | .ok i => some i
    | .error _ => none

/-- The register's name, or the opcode in decimal where the document names none (R62, R57). -/
def opcodeName (op : Byte) : String :=
  if op = 0x00#8 then "NOOP"
  else if op = 0x01#8 then "DIGIT0"
  else if op = 0x02#8 then "DIGIT1"
  else if op = 0x03#8 then "DIGIT2"
  else if op = 0x04#8 then "DIGIT3"
  else if op = 0x05#8 then "DIGIT4"
  else if op = 0x06#8 then "DIGIT5"
  else if op = 0x07#8 then "DIGIT6"
  else if op = 0x08#8 then "DIGIT7"
  else if op = 0x09#8 then "DECODE-MODE"
  else if op = 0x0A#8 then "INTENSITY"
  else if op = 0x0B#8 then "SCAN-LIMIT"
  else if op = 0x0C#8 then "SHUTDOWN"
  else if op = 0x0F#8 then "DISPLAY-TEST"
  else toString op.toNat

/-- `WR c, op, d` (R62). -/
def wrText (c : Int) (op d : Byte) : String :=
  "WR " ++ toString c ++ ", " ++ opcodeName op ++ ", " ++ toString d.toNat

/-- The assembler spelling (R62). `XMIT` has none; it is written as the spec writes the call. -/
def assembly : Instr → String
  | .wr addr op data => wrText addr op data
  | .mode m => if m then "MODE CA" else "MODE CC"
  | .xmit c op d => "XMIT(" ++ toString c ++ ", " ++ toString op.toNat ++ ", " ++ toString d.toNat ++ ")"
  | .noop c d => wrText c 0x00#8 d
  | .digit0 c d => wrText c 0x01#8 d
  | .digit1 c d => wrText c 0x02#8 d
  | .digit2 c d => wrText c 0x03#8 d
  | .digit3 c d => wrText c 0x04#8 d
  | .digit4 c d => wrText c 0x05#8 d
  | .digit5 c d => wrText c 0x06#8 d
  | .digit6 c d => wrText c 0x07#8 d
  | .digit7 c d => wrText c 0x08#8 d
  | .decodeMode c d => wrText c 0x09#8 d
  | .intensity c d => wrText c 0x0A#8 d
  | .scanLimit c d => wrText c 0x0B#8 d
  | .shutdown c d => wrText c 0x0C#8 d
  | .displayTest c d => wrText c 0x0F#8 d
  | .undefined c op d => wrText c op d

end Sys2Proof
end

