-- ==== Sys2Proof/Config.lean ====
section
/-! DEFINITION. What is fixed for the machine and is not state: the configuration input and the open parameter. -/

namespace Sys2Proof

/-- NCFG, the chip-count input sampled at reset (00_scope.md R6, D9). DESIGN CHOICE 8 (log 1): `State.reset` has to be
one state; `State.resetWith` and `construct` take every other value. -/
def Config.ncfg : Int := 8

/-- ACC_INIT, the accumulators' contents at reset: 0x00 each (R24, the spec's decision D7; log 2). -/
def Config.accInit : Vector Byte 8 := #v[0x00#8, 0x00#8, 0x00#8, 0x00#8, 0x00#8, 0x00#8, 0x00#8, 0x00#8]

/-- GLYPH, the 128-entry glyph table (R8, R146). Its values are not in the document, so nothing constrains them (U6,
log 11). -/
opaque Config.glyph : Fin 128 → Byte

end Sys2Proof
end

