-- ==== Sys2Proof/Machine/Reset.lean ====
section
/-! DEFINITION. The values reset gives (10_state.md R24, R25; 70_reset_and_hazards.md R180, R181), each under a name. -/

namespace Sys2Proof.Machine

/-- `N = NCFG` if `1 <= NCFG <= 8`, else 8 (00_scope.md R6; 90_conflicts.md C1: zero and negatives give 8). -/
def clampCount (ncfg : Int) : Nat := if 1 ≤ ncfg ∧ ncfg ≤ 8 then ncfg.toNat else 8

/-- `CA` after reset: 0, common-cathode (R24, the spec's decision D6; log 3). -/
def resetWiring : Bool := false

/-- `SEL` after reset: 1, high (R24, the spec's decision D8; log 4). -/
def resetSelect : Bool := true

end Sys2Proof.Machine
end

