-- ==== Sys2Proof/Machine/State.lean ====
section
/-! DEFINITION. The state of the block and of the host layer, what the host presents, and the reasons a step can stop. -/

namespace Sys2Proof.Machine

/-- The value of `REJ`: why the most recent command was dropped (10_state.md R16; 60_exceptions.md R162). The 2-bit
codes are `RejKind.code` in Machine/Flags.lean. -/
inductive RejKind where
  /-- The command was carried out. -/
  | none
  /-- A chip address below 0 or at least N. -/
  | invalidAddress
  /-- A row, column or digit outside 0..7 (host layer only). -/
  | invalidCoordinate
  /-- A value out of its range (host layer), or a reserved command word (R54). -/
  | invalidValue
  deriving DecidableEq, Repr

/-- One bus event (10_state.md R17): `SEL_LOW`, `BYTE(v)`, `SEL_HIGH`. -/
inductive BusEvent where
  | selLow
  | byte (v : Byte)
  | selHigh
  deriving DecidableEq, Repr

/-- The public operations of the document (30_encoding.md R63; 43_host_ops.md R131 to R144). They have no binary
encoding. Untyped and integer arguments are unbounded integers (D24). -/
inductive HostOp where
  /-- R131. The three pin identifiers are ignored (R5). -/
  | construct (dataPin clockPin selectPin chipCount : Int)
  /-- R132. -/
  | getChipCount
  /-- R133. -/
  | setCommonAnode (b : Bool)
  /-- R134. -/
  | shutdown (chip : Int) (enter : Bool)
  /-- R135. -/
  | setScanLimit (chip limit : Int)
  /-- R136. -/
  | setIntensity (chip value : Int)
  /-- R137. -/
  | clearDisplay (chip : Int)
  /-- R138. -/
  | setLed (chip row col : Int) (on : Bool)
  /-- R139. -/
  | setRow (chip row : Int) (value : Byte)
  /-- R140. -/
  | setColumn (chip col : Int) (value : Byte)
  /-- R141. -/
  | setDigit (chip digit value : Int) (decimalPoint reverse : Bool)
  /-- R142. -/
  | setChar (chip digit : Int) (ch : Byte) (decimalPoint reverse : Bool)
  /-- R143. -/
  | getRow (chip row : Int)
  /-- R144. -/
  | getLed (chip row col : Int)
  deriving DecidableEq, Repr

/-- What the host presents next: something to decode on the command port, or a call of a public operation. -/
inductive Presented where
  | command (e : Encoded)
  | call (op : HostOp)
  deriving DecidableEq, Repr

/-- The value a public operation returns: the chip count (R132), a row byte (R143), a pixel (R144). -/
inductive RetVal where
  | count (n : Nat)
  | row (v : Byte)
  | pixel (on : Bool)
  deriving DecidableEq, Repr

/-- What a public operation gives its caller (R153): `RejKind.none` stands for `Ok`. -/
structure Ret where
  status : RejKind
  value : Option RetVal
  deriving DecidableEq, Repr

/-- Host memory: (address, byte) pairs, addresses strictly rising, no byte equal to what an unlisted address reads
as. The only readable and writable address space is the display mirror (20_memory.md R30). -/
abbrev Memory := List Host.Cell

/-- Everything the spec gives the machine (10_state.md R10, R19, R22). The transient state of R18 has no value between
commands and is local to the operations (log 18). -/
structure State where
  /-- `N`, the chip count (R11). -/
  n : Nat
  /-- `CA`, the wiring mode: `true` is common-anode (R12). -/
  ca : Bool
  /-- `ACC[0..7]`, the accumulator file (R13). -/
  acc : Vector Byte 8
  /-- `SEL`, the level of the select line: `true` is high (R17). -/
  sel : Bool
  /-- `REJ`, the diagnostic status (R16). -/
  rej : RejKind
  /-- `BUS`, the bus events since reset, oldest first: ghost state (R17). -/
  bus : List BusEvent
  /-- `BUSY`, the handshake bit of the command port (R19). -/
  busy : Bool
  /-- `MIRROR`, the host's display mirror (R22). -/
  mirror : Memory
  /-- The model's own: what the host has still to present, the next one first (R15, R44; log 6). -/
  pending : List Presented
  /-- The model's own: what the last public operation returned (R153; log 9). -/
  ret : Option Ret
  deriving DecidableEq, Repr

/-- Why the machine stops with a fault. The spec gives the hardware none (60_exceptions.md R163, R172). -/
inductive Fault where
  /-- Raised by `step` when something is presented while `BUSY = 1` (93_implementation_defined.md U2): a race between
  two hosts, to which the spec gives no meaning. Safe: no run from reset reaches it (log 16). -/
  | presentedWhileBusy
  deriving DecidableEq, Repr

/-- Why a step has no meaning. -/
inductive Refusal where
  /-- Raised by `exec` for an instruction that has no meaning yet. No arm uses it. Safe. -/
  | notModelled (mnemonic : String)
  /-- Raised by `XMIT` on its own with a chip index outside 0..N-1, to which the document gives no meaning
  (42_serializer.md R119, U11). Safe: the machine stops. `WR` never gets there (R92). -/
  | xmitChipRange
  /-- Raised by `getRow` and `getLed` out of range: what they return there is not in the document (43_host_ops.md
  R143, R144, U3). Safe: the machine stops. -/
  | getterRange
  deriving DecidableEq, Repr

/-- The machine right after reset, as a function of NCFG and ACC_INIT (70_reset_and_hazards.md R180; R24, R25). The
host has presented nothing yet. -/
def State.resetWith (ncfg : Int) (accInit : Vector Byte 8) : State where
  n := clampCount ncfg
  ca := resetWiring
  acc := accInit
  sel := resetSelect
  rej := .none
  bus := []
  busy := false
  mirror := []
  pending := []
  ret := Option.none

/-- The machine right after reset, with the configuration inputs of Config. -/
def State.reset : State := State.resetWith Config.ncfg Config.accInit

end Sys2Proof.Machine
end

