-- ==== Sys2Proof/Machine/Operands.lean ====
section
/-! DEFINITION. Operand forms and bit operations: bit access, the address check, the index maps of the remap, the frame
buffer's places, the bit flip. -/

namespace Sys2Proof.Machine

/-- `bit(v, i)` (00_scope.md section 5). -/
def bit (v : Byte) (i : Nat) : Bool := v.getLsbD i

/-- `1 << k`, `k` in 0..7 (00_scope.md section 5). -/
def oneBit (k : Nat) : Byte := 1#8 <<< k

/-- `setbit(v, i, b) = (v AND NOT (1 << i)) OR (b << i)` (00_scope.md section 5). -/
def setbit (v : Byte) (i : Nat) (b : Bool) : Byte :=
  (v &&& ~~~(oneBit i)) ||| (if b then oneBit i else 0x00#8)

/-- `0 <= addr < N` on the integers (41_remapper.md R90, R98). -/
def chipOk (n : Nat) (addr : Int) : Bool := decide (0 ≤ addr ∧ addr < (n : Int))

/-- A row, column or digit is in 0..7 (43_host_ops.md R130). -/
def coordOk (k : Int) : Bool := decide (0 ≤ k ∧ k ≤ 7)

/-- A value is in `0..hi` (R135, R136, R141). -/
def valueOk (hi : Int) (v : Int) : Bool := decide (0 ≤ v ∧ v ≤ hi)

/-- The opcode is a digit register, 1..8 (R93). -/
def isDigitOpcode (op : Byte) : Bool := decide (1 ≤ op.toNat ∧ op.toNat ≤ 8)

/-- The segment indices `cS` in ascending order (R97, D11; log 25). -/
def segments : List (Fin 8) := [0, 1, 2, 3, 4, 5, 6, 7]

/-- The rows 0..7 in ascending order (R137, R140). -/
def rows : List (Fin 8) := [0, 1, 2, 3, 4, 5, 6, 7]

/-- `r(cS)`, the source bit position within the data byte (R94). -/
def readIndex (cS : Fin 8) : Nat := if cS.val = 7 then 7 else 6 - cS.val

/-- `w(op)`, the bit position written in every accumulator, for `op` in 1..8 (R95). -/
def writeIndex (op : Byte) : Nat := if op.toNat = 8 then 7 else 7 - op.toNat

/-- The register accumulator `cS` is sent to: `cS + 1` (R97). -/
def targetOpcode (cS : Fin 8) : Byte := BitVec.ofNat 8 (cS.val + 1)

/-- The opcode of a row or digit: `row + 1` (43_host_ops.md R137 to R142). -/
def rowOpcode (row : Nat) : Byte := BitVec.ofNat 8 (row + 1)

/-- The two bytes of a pair by buffer index, lower first: data, then opcode. The buffer is sent from its end, so the
opcode goes first on the wire (20_memory.md R35, the spec's decision D10; log 5). The one place that decides it. -/
def pairInBuffer (op d : Byte) : Byte × Byte := (d, op)

/-- The frame buffer of `XMIT(c, op, d)` in a chain of `n` chips: `2n` zero bytes, then the pair of chip `c` at indices
`2c` and `2c + 1` (42_serializer.md R110, R111). -/
def frameBuffer (n c : Nat) (op d : Byte) : List Byte :=
  ((List.replicate (2 * n) 0x00#8).set (2 * c) (pairInBuffer op d).1).set (2 * c + 1) (pairInBuffer op d).2

/-- `FLIP`, by output bit <- source bit 0<-0, 1<-4, 2<-5, 3<-6, 4<-1, 5<-2, 6<-3, 7<-7 (43_host_ops.md R150). -/
def flipBits (v : Byte) : Byte := (v &&& 0x81#8) ||| ((v &&& 0x70#8) >>> 3) ||| ((v &&& 0x0E#8) <<< 3)

end Sys2Proof.Machine
end

