-- ==== Sys2Proof/Machine/Flags.lean ====
section
/-! DEFINITION. The block has no flags (10_state.md R16). Its one status is REJ: the codes, and the checks that set it. -/

namespace Sys2Proof.Machine

/-- The 2-bit code of `REJ` (R16, R162; the numbers are the spec's decision D13). -/
def RejKind.code : RejKind → BitVec 2
  | .none => 0#2
  | .invalidAddress => 1#2
  | .invalidCoordinate => 2#2
  | .invalidValue => 3#2

/-- The checks of one operation in order, each with the kind it reports; the first that fails wins (43_host_ops.md
R130, 60_exceptions.md R165; D15, log 26). -/
def firstFailure : List (Bool × RejKind) → RejKind
  | [] => .none
  | (ok, kind) :: rest => if ok then firstFailure rest else kind

/-- The check of a chip address. -/
def addressCheck (n : Nat) (chip : Int) : Bool × RejKind := (chipOk n chip, .invalidAddress)

/-- The check of a row, column or digit. -/
def coordCheck (k : Int) : Bool × RejKind := (coordOk k, .invalidCoordinate)

/-- The check of a value argument against `0..hi`. -/
def valueCheck (hi v : Int) : Bool × RejKind := (valueOk hi v, .invalidValue)

end Sys2Proof.Machine
end

