-- ==== Sys2Proof/Machine/Ops.lean ====
section
/-! DEFINITION. The named operations over the state: the mirror, the registers, the bus, one frame, the remap, the
register write both WR and the register rows are, and the drop (this hardware's only exception entry, R160). -/

namespace Sys2Proof.Machine

/-- What an unlisted address reads as: 0x00, the mirror's contents at reset (10_state.md R25). -/
def Memory.unlisted : Byte := 0x00#8

/-- Read one byte. -/
def Memory.read : Memory → Nat → Byte
  | [], _ => Memory.unlisted
  | (b, v) :: rest, a => if b = a then v else Memory.read rest a

/-- A cell, or nothing where the byte is what an unlisted address reads as. -/
def Memory.cell (a : Nat) (v : Byte) : Memory := if v = Memory.unlisted then [] else [(a, v)]

/-- Write one byte, keeping the canonical form. -/
def Memory.write : Memory → Nat → Byte → Memory
  | [], a, v => Memory.cell a v
  | (b, u) :: rest, a, v =>
    if a < b then Memory.cell a v ++ (b, u) :: rest
    else if a = b then Memory.cell a v ++ rest
    else (b, u) :: Memory.write rest a v

/-- Every address is above `lo` and they rise strictly; no listed byte is what an unlisted address reads as. -/
def Memory.wfAbove : Memory → Nat → Bool
  | [], _ => true
  | (b, v) :: rest, lo => decide (lo ≤ b) && decide (v ≠ Memory.unlisted) && Memory.wfAbove rest (b + 1)

/-- The canonical form of a memory. -/
def Memory.wf (m : Memory) : Bool := Memory.wfAbove m 0

/-- The key of `MIRROR[c][r]`: one byte for each (chip, row) (20_memory.md R32; log 15). -/
def mirrorAddr (c r : Nat) : Nat := 8 * c + r

/-- `MIRROR[c][r]`. -/
def State.mirrorAt (s : State) (c r : Nat) : Byte := Memory.read s.mirror (mirrorAddr c r)

/-- `MIRROR[c][r] <- v`. -/
def State.setMirror (s : State) (c r : Nat) (v : Byte) : State :=
  { s with mirror := Memory.write s.mirror (mirrorAddr c r) v }

/-- `ACC[cS] <- v`. -/
def State.setAcc (s : State) (cS : Fin 8) (v : Byte) : State := { s with acc := s.acc.set cS.val v }

/-- `CA <- m`. -/
def State.setWiring (s : State) (m : Bool) : State := { s with ca := m }

/-- `REJ <- kind`. With a kind other than `none` this is all `raise Reject(kind)` does: no handler, no saved state, no
change of mode, no control transfer (60_exceptions.md R160, R161, R166). -/
def State.setRej (s : State) (kind : RejKind) : State := { s with rej := kind }

/-- What a public operation returns to its caller (R153). -/
def State.setRet (s : State) (r : Ret) : State := { s with ret := some r }

/-- `SEL <- 0 ; emit SEL_LOW`: the document's `assertSelect()` (42_serializer.md R113, R116). -/
def State.assertSelect (s : State) : State := { s with sel := false, bus := s.bus ++ [.selLow] }

/-- `emit BYTE(v)`: the document's `writeByte` (R116). -/
def State.writeByte (s : State) (v : Byte) : State := { s with bus := s.bus ++ [.byte v] }

/-- `SEL <- 1 ; emit SEL_HIGH`: the document's `releaseSelect()` (R113, R116). -/
def State.releaseSelect (s : State) : State := { s with sel := true, bus := s.bus ++ [.selHigh] }

/-- `XMIT(c, op, d)` for a chip of the chain: the buffer, sent from its highest index down to 0 inside one select
bracket (42_serializer.md R110, R112, R113). -/
def xmit (c : Nat) (op d : Byte) (s : State) : State :=
  ((frameBuffer s.n c op d).reverse.foldl State.writeByte s.assertSelect).releaseSelect

/-- One segment of the remap: update `ACC[cS]`, then send it (41_remapper.md R96, R97). -/
def remapSegment (c w : Nat) (d : Byte) (s : State) (cS : Fin 8) : State :=
  let v := setbit s.acc[cS] w (bit d (readIndex cS))
  xmit c (targetOpcode cS) v (s.setAcc cS v)

/-- `remap(c, w, d)`: the eight segments (40_register_writes.md section 3, R93). -/
def remap (c w : Nat) (d : Byte) (s : State) : State := segments.foldl (remapSegment c w d) s

/-- The address check every register write begins with: dropped with `InvalidAddress`, or carried out with `REJ <- 0`
(R90, R92; D5, log 23). -/
def checkedWrite (addr : Int) (act : Nat → State → State) (s : State) : State :=
  if chipOk s.n addr then act addr.toNat (s.setRej .none) else s.setRej .invalidAddress

/-- `WR addr, op, data` (R90): drop, remap or passthrough. -/
def registerWrite (addr : Int) (op data : Byte) (s : State) : State :=
  checkedWrite addr
    (fun c t => if t.ca && isDigitOpcode op then remap c (writeIndex op) data t else xmit c op data t) s

/-- A write of a digit register whose write index the rule states: `if CA = 0 then XMIT(c, op, d) else remap(c, w, d)`
(R72 to R79). -/
def digitWrite (op : Byte) (w : Nat) (addr : Int) (d : Byte) (s : State) : State :=
  checkedWrite addr (fun c t => if t.ca then remap c w d t else xmit c op d t) s

/-- A write of a register outside 1..8: `XMIT(c, op, d)` in both modes (R71, R80 to R84). -/
def passthroughWrite (op : Byte) (addr : Int) (d : Byte) (s : State) : State :=
  checkedWrite addr (fun c t => xmit c op d t) s

end Sys2Proof.Machine
end

