-- ==== Sys2Proof/Machine/Commands.lean ====
section
/-! DEFINITION. The meanings of the two commands, WR and MODE (41_remapper.md), and stage A as a pure function. -/

namespace Sys2Proof.Machine

/-- `WR addr, op, data` (R90). -/
def execWr (addr : Int) (op data : Byte) (s : State) : Host.Outcome State Fault Refusal :=
  .next (registerWrite addr op data s)

/-- `MODE m`: `CA <- m; REJ <- 0` (R91; D12, log 24). -/
def modeWrite (m : Bool) (s : State) : State := (s.setWiring m).setRej .none

/-- `MODE m` (R91). -/
def execMode (m : Bool) (s : State) : Host.Outcome State Fault Refusal := .next (modeWrite m s)

end Sys2Proof.Machine
end

