-- ==== Sys2Proof/Machine/Registers.lean ====
section
/-! DEFINITION. The meanings of the register rows of the opcode table (40_register_writes.md): `WR` of one register by
its name. What the register means to the chip is out of scope (R70, R5). -/

namespace Sys2Proof.Machine

/-- NOOP, opcode 0x00: one frame in both modes, `ACC` unchanged (R71). -/
def execNoop (c : Int) (d : Byte) (s : State) : Host.Outcome State Fault Refusal :=
  .next (passthroughWrite 0x00#8 c d s)

/-- DIGIT0, opcode 0x01: write index 6 (R72). -/
def execDigit0 (c : Int) (d : Byte) (s : State) : Host.Outcome State Fault Refusal :=
  .next (digitWrite 0x01#8 6 c d s)

/-- DIGIT1, opcode 0x02: write index 5 (R73). -/
def execDigit1 (c : Int) (d : Byte) (s : State) : Host.Outcome State Fault Refusal :=
  .next (digitWrite 0x02#8 5 c d s)

/-- DIGIT2, opcode 0x03: write index 4 (R74). -/
def execDigit2 (c : Int) (d : Byte) (s : State) : Host.Outcome State Fault Refusal :=
  .next (digitWrite 0x03#8 4 c d s)

/-- DIGIT3, opcode 0x04: write index 3 (R75). -/
def execDigit3 (c : Int) (d : Byte) (s : State) : Host.Outcome State Fault Refusal :=
  .next (digitWrite 0x04#8 3 c d s)

/-- DIGIT4, opcode 0x05: write index 2 (R76). -/
def execDigit4 (c : Int) (d : Byte) (s : State) : Host.Outcome State Fault Refusal :=
  .next (digitWrite 0x05#8 2 c d s)

/-- DIGIT5, opcode 0x06: write index 1 (R77). -/
def execDigit5 (c : Int) (d : Byte) (s : State) : Host.Outcome State Fault Refusal :=
  .next (digitWrite 0x06#8 1 c d s)

/-- DIGIT6, opcode 0x07: write index 0 (R78). -/
def execDigit6 (c : Int) (d : Byte) (s : State) : Host.Outcome State Fault Refusal :=
  .next (digitWrite 0x07#8 0 c d s)

/-- DIGIT7, opcode 0x08: write index 7 (R79). -/
def execDigit7 (c : Int) (d : Byte) (s : State) : Host.Outcome State Fault Refusal :=
  .next (digitWrite 0x08#8 7 c d s)

/-- DECODE-MODE, opcode 0x09: one frame in both modes, `ACC` unchanged (R80). -/
def execDecodeMode (c : Int) (d : Byte) (s : State) : Host.Outcome State Fault Refusal :=
  .next (passthroughWrite 0x09#8 c d s)

/-- INTENSITY, opcode 0x0A: one frame in both modes, `ACC` unchanged (R81). -/
def execIntensity (c : Int) (d : Byte) (s : State) : Host.Outcome State Fault Refusal :=
  .next (passthroughWrite 0x0A#8 c d s)

/-- SCAN-LIMIT, opcode 0x0B: one frame in both modes, `ACC` unchanged (R82). -/
def execScanLimit (c : Int) (d : Byte) (s : State) : Host.Outcome State Fault Refusal :=
  .next (passthroughWrite 0x0B#8 c d s)

/-- SHUTDOWN, opcode 0x0C: one frame in both modes, `ACC` unchanged (R83). -/
def execShutdown (c : Int) (d : Byte) (s : State) : Host.Outcome State Fault Refusal :=
  .next (passthroughWrite 0x0C#8 c d s)

/-- DISPLAY-TEST, opcode 0x0F: one frame in both modes, `ACC` unchanged (R84). -/
def execDisplayTest (c : Int) (d : Byte) (s : State) : Host.Outcome State Fault Refusal :=
  .next (passthroughWrite 0x0F#8 c d s)

/-- An opcode the document defines no register for: passed through like any opcode outside 1..8, by the general rule of
`WR`; the block does not check it against the defined list (R85, R59). -/
def execUndefined (c : Int) (op d : Byte) (s : State) : Host.Outcome State Fault Refusal :=
  .next (registerWrite c op d s)

end Sys2Proof.Machine
end

