-- ==== Sys2Proof/Machine/Serializer.lean ====
section
/-! DEFINITION. The meaning of the stage B micro-operation XMIT (42_serializer.md). -/

namespace Sys2Proof.Machine

/-- `XMIT(c, op, d)` on its own (R110): defined for `0 <= c < N`, refused otherwise and never clamped or wrapped (R119;
log 8). It writes neither `REJ` nor `ACC`. -/
def execXmit (c : Int) (op d : Byte) (s : State) : Host.Outcome State Fault Refusal :=
  if chipOk s.n c then .next (xmit c.toNat op d s) else .refused .xmitChipRange

end Sys2Proof.Machine
end

