-- ==== Sys2Proof/Machine/Dispatch.lean ====
section
/-! DEFINITION. The dispatch: one arm per constructor of Instr. -/

namespace Sys2Proof.Machine

def exec (i : Instr) (s : State) : Host.Outcome State Fault Refusal :=
  match i with
  | .wr addr op data => Sys2Proof.Machine.execWr addr op data s
  | .mode m => Sys2Proof.Machine.execMode m s
  | .xmit c op d => Sys2Proof.Machine.execXmit c op d s
  | .noop c d => Sys2Proof.Machine.execNoop c d s
  | .digit0 c d => Sys2Proof.Machine.execDigit0 c d s
  | .digit1 c d => Sys2Proof.Machine.execDigit1 c d s
  | .digit2 c d => Sys2Proof.Machine.execDigit2 c d s
  | .digit3 c d => Sys2Proof.Machine.execDigit3 c d s
  | .digit4 c d => Sys2Proof.Machine.execDigit4 c d s
  | .digit5 c d => Sys2Proof.Machine.execDigit5 c d s
  | .digit6 c d => Sys2Proof.Machine.execDigit6 c d s
  | .digit7 c d => Sys2Proof.Machine.execDigit7 c d s
  | .decodeMode c d => Sys2Proof.Machine.execDecodeMode c d s
  | .intensity c d => Sys2Proof.Machine.execIntensity c d s
  | .scanLimit c d => Sys2Proof.Machine.execScanLimit c d s
  | .shutdown c d => Sys2Proof.Machine.execShutdown c d s
  | .displayTest c d => Sys2Proof.Machine.execDisplayTest c d s
  | .undefined c op d => Sys2Proof.Machine.execUndefined c op d s

end Sys2Proof.Machine
end

