-- ==== Sys2Proof/Machine/HostOps.lean ====
section
/-! DEFINITION. The host layer (43_host_ops.md): the public operations as macros over the mirror and the block's
commands. One operation is one step: it returns when all its bus transmissions are done (R145; 20_memory.md R40, R46;
log 28). -/

namespace Sys2Proof.Machine

/-- `SPACE_CODE = 32` (00_scope.md R8, from general knowledge GK1; log 11). -/
def spaceCode : Fin 128 := 32

/-- What the constructor writes to every chip: DECODE-MODE <- 0, then SHUTDOWN <- 0 (70_reset_and_hazards.md R182, the
spec's decision D16; log 12). -/
def bootWrites : List (Byte × Byte) := [(0x09#8, 0x00#8), (0x0C#8, 0x00#8)]

/-- The boot sequence: for each chip ascending, the writes of `bootWrites` (R182). -/
def boot (s : State) : State :=
  (List.range s.n).foldl
    (fun t (c : Nat) => bootWrites.foldl (fun u (p : Byte × Byte) => registerWrite (c : Int) p.1 p.2 u) t) s

/-- A public operation with its checks: the first that fails drops it, writing `REJ` and nothing else of the machine
(R130; 60_exceptions.md R161); else it is carried out. Either way the caller gets the kind (R153). -/
def validated (checks : List (Bool × RejKind)) (act : State → State) (s : State) :
    Host.Outcome State Fault Refusal :=
  match firstFailure checks with
  | .none => .next ((act s).setRet ⟨.none, none⟩)
  | kind => .next ((s.setRej kind).setRet ⟨kind, none⟩)

/-- Set or clear pixel (row `r`, column `k`) of chip `c`: the mirror first, then the `WR` of the whole row byte, issued
even if the byte did not change (R138, R145). -/
def setPixel (c r k : Nat) (on : Bool) (s : State) : State :=
  let mask := oneBit (7 - k)
  let v := if on then s.mirrorAt c r ||| mask else s.mirrorAt c r &&& ~~~mask
  registerWrite (c : Int) (rowOpcode r) v (s.setMirror c r v)

/-- Store a row byte in the mirror, then send a byte to the row's register (R139, R141, R142). -/
def storeRow (c r : Nat) (stored sent : Byte) (s : State) : State :=
  registerWrite (c : Int) (rowOpcode r) sent (s.setMirror c r stored)

/-- The glyph of a code with bit 7 ORed in for the decimal point (R141, R142). -/
def glyphByte (code : Fin 128) (decimalPoint : Bool) : Byte :=
  if decimalPoint then Config.glyph code ||| 0x80#8 else Config.glyph code

/-- The table index of a digit value; the operation has checked 0..15 (R141). -/
def digitCode (value : Int) : Fin 128 := Fin.ofNat 128 value.toNat

/-- The table index of a character: above 127 it is the space's (R142; 90_conflicts.md C4). -/
def charCode (ch : Byte) : Fin 128 := if ch.toNat > 127 then spaceCode else Fin.ofNat 128 ch.toNat

/-- The byte sent for a stored byte: flipped if `reverse`, before the remap inside `WR` (R152; D17, log 13). -/
def sentByte (reverse : Bool) (v : Byte) : Byte := if reverse then flipBits v else v

/-- `construct(_, _, _, chipCount)` (R131): reset with NCFG, mirror zero, boot. The host's own list of what it will
present is not the machine's and stays (log 14). -/
def hostConstruct (chipCount : Int) (s : State) : Host.Outcome State Fault Refusal :=
  .next ((boot { State.resetWith chipCount Config.accInit with busy := s.busy, pending := s.pending }).setRet
    ⟨.none, none⟩)

/-- `getChipCount()` (R132). -/
def hostGetChipCount (s : State) : Host.Outcome State Fault Refusal :=
  .next (s.setRet ⟨.none, some (.count s.n)⟩)

/-- `setCommonAnode(b)`: `MODE b` (R133). -/
def hostSetCommonAnode (b : Bool) (s : State) : Host.Outcome State Fault Refusal :=
  .next ((modeWrite b s).setRet ⟨.none, none⟩)

/-- `shutdown(chip, enter)`: `WR chip, 12, (enter ? 0 : 1)` (R134). -/
def hostShutdown (chip : Int) (enter : Bool) (s : State) : Host.Outcome State Fault Refusal :=
  validated [addressCheck s.n chip] (registerWrite chip 0x0C#8 (if enter then 0x00#8 else 0x01#8)) s

/-- `setScanLimit(chip, limit)`: `WR chip, 11, limit`, 0..7 (R135). -/
def hostSetScanLimit (chip limit : Int) (s : State) : Host.Outcome State Fault Refusal :=
  validated [addressCheck s.n chip, valueCheck 7 limit] (registerWrite chip 0x0B#8 (BitVec.ofInt 8 limit)) s

/-- `setIntensity(chip, value)`: `WR chip, 10, value`, 0..15 (R136). -/
def hostSetIntensity (chip value : Int) (s : State) : Host.Outcome State Fault Refusal :=
  validated [addressCheck s.n chip, valueCheck 15 value] (registerWrite chip 0x0A#8 (BitVec.ofInt 8 value)) s

/-- Every row of chip `c`, ascending: mirror byte 0, then `WR c, row + 1, 0` (R137; D19, log 25). -/
def clearRows (c : Nat) (s : State) : State :=
  rows.foldl (fun t (r : Fin 8) => storeRow c r.val 0x00#8 0x00#8 t) s

/-- `clearDisplay(chip)` (R137). -/
def hostClearDisplay (chip : Int) (s : State) : Host.Outcome State Fault Refusal :=
  validated [addressCheck s.n chip] (clearRows chip.toNat) s

/-- `setLed(chip, row, col, on)` (R138). -/
def hostSetLed (chip row col : Int) (on : Bool) (s : State) : Host.Outcome State Fault Refusal :=
  validated [addressCheck s.n chip, coordCheck row, coordCheck col]
    (setPixel chip.toNat row.toNat col.toNat on) s

/-- `setRow(chip, row, value)` (R139). -/
def hostSetRow (chip row : Int) (value : Byte) (s : State) : Host.Outcome State Fault Refusal :=
  validated [addressCheck s.n chip, coordCheck row] (storeRow chip.toNat row.toNat value value) s

/-- The eight single-pixel writes of a column, rows ascending: bit `7 - row` of the byte goes to `row` (R140). -/
def columnPixels (c k : Nat) (value : Byte) (s : State) : State :=
  rows.foldl (fun t (r : Fin 8) => setPixel c r.val k (bit value (7 - r.val)) t) s

/-- `setColumn(chip, col, value)` (R140). -/
def hostSetColumn (chip col : Int) (value : Byte) (s : State) : Host.Outcome State Fault Refusal :=
  validated [addressCheck s.n chip, coordCheck col] (columnPixels chip.toNat col.toNat value) s

/-- `setDigit(chip, digit, value, decimalPoint, reverse)` (R141; D18, log 29). -/
def hostSetDigit (chip digit value : Int) (decimalPoint reverse : Bool) (s : State) :
    Host.Outcome State Fault Refusal :=
  let v := glyphByte (digitCode value) decimalPoint
  validated [addressCheck s.n chip, coordCheck digit, valueCheck 15 value]
    (storeRow chip.toNat digit.toNat v (sentByte reverse v)) s

/-- `setChar(chip, digit, ch, decimalPoint, reverse)` (R142). -/
def hostSetChar (chip digit : Int) (ch : Byte) (decimalPoint reverse : Bool) (s : State) :
    Host.Outcome State Fault Refusal :=
  let v := glyphByte (charCode ch) decimalPoint
  validated [addressCheck s.n chip, coordCheck digit]
    (storeRow chip.toNat digit.toNat v (sentByte reverse v)) s

/-- `getRow(chip, row)` (R143): refused out of range (D21, log 27). -/
def hostGetRow (chip row : Int) (s : State) : Host.Outcome State Fault Refusal :=
  if chipOk s.n chip && coordOk row then
    .next (s.setRet ⟨.none, some (.row (s.mirrorAt chip.toNat row.toNat))⟩)
  else .refused .getterRange

/-- `getLed(chip, row, col)` (R144): refused out of range (D21, log 27). -/
def hostGetLed (chip row col : Int) (s : State) : Host.Outcome State Fault Refusal :=
  if chipOk s.n chip && coordOk row && coordOk col then
    .next (s.setRet ⟨.none, some (.pixel (bit (s.mirrorAt chip.toNat row.toNat) (7 - col.toNat)))⟩)
  else .refused .getterRange

/-- The public operation surface (30_encoding.md R63). -/
def hostExec (op : HostOp) (s : State) : Host.Outcome State Fault Refusal :=
  match op with
  | .construct _ _ _ chipCount => hostConstruct chipCount s
  | .getChipCount => hostGetChipCount s
  | .setCommonAnode b => hostSetCommonAnode b s
  | .shutdown chip enter => hostShutdown chip enter s
  | .setScanLimit chip limit => hostSetScanLimit chip limit s
  | .setIntensity chip value => hostSetIntensity chip value s
  | .clearDisplay chip => hostClearDisplay chip s
  | .setLed chip row col on => hostSetLed chip row col on s
  | .setRow chip row value => hostSetRow chip row value s
  | .setColumn chip col value => hostSetColumn chip col value s
  | .setDigit chip digit value dp reverse => hostSetDigit chip digit value dp reverse s
  | .setChar chip digit ch dp reverse => hostSetChar chip digit ch dp reverse s
  | .getRow chip row => hostGetRow chip row s
  | .getLed chip row col => hostGetLed chip row col s

end Sys2Proof.Machine
end

