-- ==== Sys2Proof/Machine/Run.lean ====
section
/-! DEFINITION. Taking what the host presents and carrying it out: the body of the step. -/

namespace Sys2Proof.Machine

/-- The command is taken off the host's list and `BUSY <- 1` (10_state.md R19). -/
def State.accept (s : State) (rest : List Presented) : State := { s with pending := rest, busy := true }

/-- `BUSY <- 0` after the command's last bus event (R19). -/
def State.ready (s : State) : State := { s with busy := false }

/-- A reserved command word: no state change, no bus event, `REJ <- 3` (30_encoding.md R54; D14, log 21). -/
def reservedWord (s : State) : State := s.setRej .invalidValue

/-- What one presented item does, once accepted. -/
def runPresented (p : Presented) (s : State) : Host.Outcome State Fault Refusal :=
  match p with
  | .call op => hostExec op s
  | .command e =>
    match decode e with
    | .ok i => exec i s
    | .error _ => .next (reservedWord s)

/-- The block is ready again where the command completed. -/
def completed (o : Host.Outcome State Fault Refusal) : Host.Outcome State Fault Refusal :=
  match o with
  | .next t => .next t.ready
  | .fault r => .fault r
  | .refused r => .refused r

/-- One step: the next item the host presents is carried out completely (R15, R44). With nothing presented the block
waits (log 6). -/
def takeNext (s : State) : Host.Outcome State Fault Refusal :=
  match s.pending with
  | [] => .next s
  | p :: rest => if s.busy then .fault .presentedWhileBusy else completed (runPresented p (s.accept rest))

/-- The host presents `e` next, to a block that can take it. -/
def State.present (s : State) (e : Encoded) : State :=
  { s with busy := false, pending := .command e :: s.pending }

end Sys2Proof.Machine
end

