-- ==== Sys2Proof/Machine/Step.lean ====
section
/-! DEFINITION. The step, and the place where the host's next command word stands. -/

namespace Sys2Proof.Machine

/-- One step of the machine: one presented command or operation (Machine/Run.lean). -/
def step (s : State) : Host.Outcome State Fault Refusal := takeNext s

/-- `s` with one instruction of the opcode table presented next (log 6). A width the table does not have leaves `s` as
it is. -/
def State.withFetchWord (s : State) (nbits w : Nat) : State :=
  match encodedOfTable nbits w with
  | some e => s.present e
  | none => s

end Sys2Proof.Machine
end

