-- ==== Sys2Proof/Machine/Chain.lean ====
section
/-! DEFINITION. The chain's view: observations over BUS, not state of the block (42_serializer.md R118; 10_state.md
R20; log 17). -/

namespace Sys2Proof.Machine

/-- The completed frames of a bus history; `cur` holds the bytes since the last `SEL_LOW`. -/
def framesFrom : List Byte → List BusEvent → List (List Byte)
  | _, [] => []
  | _, .selLow :: rest => framesFrom [] rest
  | cur, .byte v :: rest => framesFrom (cur ++ [v]) rest
  | cur, .selHigh :: rest => cur :: framesFrom [] rest

/-- The frames committed so far, oldest first, each in wire order. -/
def framesOf (bus : List BusEvent) : List (List Byte) := framesFrom [] bus

/-- The chips' shift registers as one row of bytes, the one nearest the controller first: a byte sent enters there and
pushes every other one byte further; the last falls out (00_scope.md glossary, R34). `none` is a byte nobody knows. -/
def shiftByte (sr : List (Option Byte)) (v : Byte) : List (Option Byte) := (some v :: sr).dropLast

/-- A whole frame, first byte first. -/
def shiftIn (sr : List (Option Byte)) (frame : List Byte) : List (Option Byte) := frame.foldl shiftByte sr

/-- What chip `k`'s 16 bits hold: (first byte received, byte after it), that is (opcode, data) (R55). -/
def heldPair (sr : List (Option Byte)) (k : Nat) : Option (Byte × Byte) :=
  match sr[2 * k + 1]?, sr[2 * k]? with
  | some (some op), some (some d) => some (op, d)
  | _, _ => none

/-- The pair chip `k` commits when select rises after `frame`: counted from the frame's end, the first byte sent
travels farthest (R118). -/
def committedPair (frame : List Byte) (k : Nat) : Option (Byte × Byte) :=
  match frame.reverse[2 * k + 1]?, frame.reverse[2 * k]? with
  | some op, some d => some (op, d)
  | _, _ => none

/-- One frame's effect on register `p` of chip `k`. A pair with opcode 0 commits nothing (R118). -/
def commitFrame (k : Nat) (p : Byte) (old : Option Byte) (frame : List Byte) : Option Byte :=
  match committedPair frame k with
  | some (op, d) => if op = p ∧ p ≠ 0x00#8 then some d else old
  | none => old

/-- `LAST(BUS)[k][p]`: the data byte last committed to register `p` of chip `k`; `none` is unknown (R118, U5). -/
def lastWrite (bus : List BusEvent) (k : Nat) (p : Byte) : Option Byte :=
  (framesOf bus).foldl (commitFrame k p) none

/-- The eight data-line values of one `BYTE(v)`, most significant bit first (20_memory.md R36, informative). -/
def lineBits (v : Byte) : List Bool := [bit v 7, bit v 6, bit v 5, bit v 4, bit v 3, bit v 2, bit v 1, bit v 0]

end Sys2Proof.Machine
end

