-- ==== Sys2Proof/Machine/StageA.lean ====
section
/-! DEFINITION. Stage A on its own, as a pure function, and stage B on a list of its requests (41_remapper.md R104). -/

namespace Sys2Proof.Machine

/-- One stage B request `(c, op, d)`. -/
structure Request where
  c : Nat
  op : Byte
  d : Byte
  deriving DecidableEq, Repr

/-- A command of the command port, decoded (30_encoding.md R50). -/
inductive Command where
  | wr (addr : Int) (op data : Byte)
  | mode (m : Bool)
  deriving DecidableEq, Repr

/-- What stage A answers: `(CA', ACC', requests, REJ')`. -/
structure StageAResult where
  ca : Bool
  acc : Vector Byte 8
  requests : List Request
  rej : RejKind
  deriving DecidableEq, Repr

/-- The eight requests of a remapped write, from the accumulators after it (R97). -/
def remapRequests (c : Nat) (acc : Vector Byte 8) : List Request :=
  segments.map fun cS => ⟨c, targetOpcode cS, acc[cS]⟩

/-- The accumulators after a remapped write (R96). -/
def remapAcc (w : Nat) (d : Byte) (acc : Vector Byte 8) : Vector Byte 8 :=
  segments.foldl (fun a (cS : Fin 8) => a.set cS.val (setbit a[cS] w (bit d (readIndex cS)))) acc

/-- Stage A: `(CA, ACC, N, command) -> (CA', ACC', requests, REJ')` (R104). -/
def stageA (ca : Bool) (acc : Vector Byte 8) (n : Nat) : Command → StageAResult
  | .mode m => ⟨m, acc, [], .none⟩
  | .wr addr op data =>
    if !chipOk n addr then ⟨ca, acc, [], .invalidAddress⟩
    else if ca && isDigitOpcode op then
      ⟨ca, remapAcc (writeIndex op) data acc,
        remapRequests addr.toNat (remapAcc (writeIndex op) data acc), .none⟩
    else ⟨ca, acc, [⟨addr.toNat, op, data⟩], .none⟩

/-- Stage B on a list of requests, in order: request `k + 1` begins after the frame of request `k` (R104). -/
def stageB (requests : List Request) (s : State) : State :=
  requests.foldl (fun t (r : Request) => xmit r.c r.op r.d t) s

end Sys2Proof.Machine
end

