-- ==== Sys2Proof/Safety.lean ====
section
/-! DEFINITION. The terms claims use: a frame as the spec describes it on the wire, the state after a write, and what
every step keeps. No rejection is unsafe: a silent drop is the specified behaviour (60_exceptions.md R163). -/

namespace Sys2Proof.Machine

/-- The frame of `XMIT(c, op, d)` by R56: for each chip from the last to the first its pair, opcode first; the pair of
chip `c` is `(op, d)`, every other is `(0x00, 0x00)`. -/
def wireFrame (n c : Nat) (op d : Byte) : List Byte :=
  (List.range n).reverse.flatMap fun k => if k = c then [op, d] else [0x00#8, 0x00#8]

/-- The bus events of a frame: its bytes inside one select bracket (42_serializer.md R113). -/
def bracketed (frame : List Byte) : List BusEvent := .selLow :: (frame.map .byte ++ [.selHigh])

/-- The bus events of `XMIT(c, op, d)`. -/
def frameEvents (n c : Nat) (op d : Byte) : List BusEvent := bracketed (wireFrame n c op d)

/-- The accumulators after a remapped write of `d` at write index `w`, all eight at once (R94, R96). -/
def accAfter (w : Nat) (d : Byte) (acc : Vector Byte 8) : Vector Byte 8 :=
  Vector.ofFn fun cS => setbit acc[cS] w (bit d (readIndex cS))

/-- The bus events of a remapped write to chip `c`, from the accumulators after it: registers 1 to 8 in order (R97). -/
def remapEvents (n c : Nat) (acc : Vector Byte 8) : List BusEvent :=
  (List.finRange 8).flatMap fun cS => frameEvents n c (targetOpcode cS) acc[cS]

/-- The state after a passthrough write that is carried out. -/
def State.afterPassthrough (s : State) (c : Nat) (op d : Byte) : State :=
  { s with rej := .none, sel := true, bus := s.bus ++ frameEvents s.n c op d }

/-- The state after a remapped write that is carried out. -/
def State.afterRemap (s : State) (c w : Nat) (d : Byte) : State :=
  { s with
    rej := .none, sel := true, acc := accAfter w d s.acc,
    bus := s.bus ++ remapEvents s.n c (accAfter w d s.acc) }

/-- At most one chip of the chain commits a pair that is not `(NOOP, 0)` (R115). -/
abbrev AtMostOnePair (n : Nat) (frame : List Byte) : Prop :=
  ((List.range n).filter fun k => committedPair frame k ≠ some (0x00#8, 0x00#8)).length ≤ 1

/-- The bus is a sequence of whole select-bracketed frames, each of `2n` bytes and addressed to at most one chip
(R44, R112, R113, R115). -/
abbrev BusFramed (n : Nat) (bus : List BusEvent) : Prop :=
  bus = (framesOf bus).flatMap bracketed ∧ ∀ f ∈ framesOf bus, f.length = 2 * n ∧ AtMostOnePair n f

/-- What holds between commands: `N` in 1..8 (R6), select high (R113), not busy (R19), the bus framed, the mirror in
canonical form and inside its `8N` bytes (R32). -/
structure State.Inv (s : State) : Prop where
  count : 1 ≤ s.n ∧ s.n ≤ 8
  select : s.sel = true
  idle : s.busy = false
  framed : BusFramed s.n s.bus
  mirrorWf : Memory.wf s.mirror = true
  mirrorIn : ∀ cell ∈ s.mirror, cell.1 < 8 * s.n

/-- The register write an instruction is, as (chip, opcode, data): `WR` and the fifteen register rows (R70); `MODE` and
`XMIT` are none. -/
def asWrite : Instr → Option (Int × Byte × Byte)
  | .wr addr op data => some (addr, op, data)
  | .mode _ => none
  | .xmit _ _ _ => none
  | .noop c d => some (c, 0x00#8, d)
  | .digit0 c d => some (c, 0x01#8, d)
  | .digit1 c d => some (c, 0x02#8, d)
  | .digit2 c d => some (c, 0x03#8, d)
  | .digit3 c d => some (c, 0x04#8, d)
  | .digit4 c d => some (c, 0x05#8, d)
  | .digit5 c d => some (c, 0x06#8, d)
  | .digit6 c d => some (c, 0x07#8, d)
  | .digit7 c d => some (c, 0x08#8, d)
  | .decodeMode c d => some (c, 0x09#8, d)
  | .intensity c d => some (c, 0x0A#8, d)
  | .scanLimit c d => some (c, 0x0B#8, d)
  | .shutdown c d => some (c, 0x0C#8, d)
  | .displayTest c d => some (c, 0x0F#8, d)
  | .undefined c op d => some (c, op, d)

/-- Instructions carried out one after another, stopping at the first fault or refusal (R44). -/
def execAll : List Instr → State → Host.Outcome State Fault Refusal
  | [], s => .next s
  | i :: rest, s =>
    match exec i s with
    | .next t => execAll rest t
    | .fault r => .fault r
    | .refused r => .refused r

/-- Public operations carried out one after another, stopping at the first refusal. -/
def callAll : List HostOp → State → Host.Outcome State Fault Refusal
  | [], s => .next s
  | op :: rest, s =>
    match hostExec op s with
    | .next t => callAll rest t
    | .fault r => .fault r
    | .refused r => .refused r

/-- The state an outcome goes on in. -/
def nextState (o : Host.Outcome State Fault Refusal) : Option State :=
  match o with
  | .next s => some s
  | .fault _ => none
  | .refused _ => none

end Sys2Proof.Machine
end

