-- ==== Sys2Proof/Certificates/Slice0/Obligations.lean ====
section
/-! DEFINITION. The statements for the provers. Each docstring names the rule or section it formalises; OBLIGATIONS.json
lists them. Where a statement rests on one of the spec's own decisions D<n> or on a choice of the model, its docstring
says so; REJ and its codes are the spec's decision D13 wherever a statement names what REJ holds. -/

open Sys2Proof Sys2Proof.Machine

/-! ## Encoding -/

/-- Words written out from the patterns decode to what they stand for (R52, R53, R55, R62's examples, V1). The layout of
CW32 is the spec's decision D3; the pair as an instruction is log 7. -/
def Obligations.WrittenOutWordsDecode : Prop :=
  decode (.word 0b0000_0000_00000010_00001010_00001000#32) = .ok (.wr 2 0x0A 0x08) ∧
    decode (.word 0b0000_0000_11111111_00000001_11111111#32) = .ok (.wr (-1) 0x01 0xFF) ∧
    decode (.word 0b0001_0000_00000000_00000000_00000001#32) = .ok (.mode true) ∧
    decode (.pair 0x00#8 0b00000001_10100101#16) = .ok (.digit0 0 0xA5) ∧
    decode (.pair 0x03#8 0b00001100_00000001#16) = .ok (.shutdown 3 0x01) ∧
    decode (.pair 0xFF#8 0b00001101_11101110#16) = .ok (.undefined (-1) 0x0D 0xEE) ∧
    decode (.request 2 0x0A 0x5C) = .ok (.xmit 2 0x0A 0x5C)

/-- Decoding an encoded well-formed instruction gives it back, every operand at every value the format carries. -/
def Obligations.DecodeOfEncode : Prop :=
  ∀ i : Instr, wellFormed i = true → decode (encode i) = .ok i

/-- Every word has one meaning: what decodes is well formed and encodes to the same word. -/
def Obligations.EncodeOfDecode : Prop :=
  ∀ (e : Encoded) (i : Instr), decode e = .ok i → wellFormed i = true ∧ encode i = e

/-- A command word is `WR` exactly when it matches `0x00000000` under `0xFF000000`, `MODE` exactly when it matches
`0x10000000` under `0xFFFFFFFE`, and reserved otherwise (R52, R53, R54; the spec's decisions D3, D14). -/
def Obligations.CommandWordsByMask : Prop :=
  ∀ w : BitVec 32,
    (w &&& 0xFF000000#32 = 0x00000000#32 ↔
      decode (.word w) =
        .ok (.wr (w.extractLsb' 16 8).toInt (w.extractLsb' 8 8) (w.extractLsb' 0 8))) ∧
    (w &&& 0xFFFFFFFE#32 = 0x10000000#32 ↔ decode (.word w) = .ok (.mode (w.getLsbD 0))) ∧
    ((w &&& 0xFF000000#32 ≠ 0x00000000#32 ∧ w &&& 0xFFFFFFFE#32 ≠ 0x10000000#32) ↔
      ∃ why, decode (.word w) = .error why)

/-! ## The step -/

/-- When what the host presents next decodes to `i`, the step is `exec i` on the state in which it has been taken off
the host's list and BUSY is set; a completed instruction leaves BUSY clear (R15, R19; the host's list is log 6). -/
def Obligations.StepRunsDecodedInstruction : Prop :=
  ∀ (s : State) (e : Encoded) (rest : List Presented) (i : Instr),
    s.busy = false → s.pending = .command e :: rest → decode e = .ok i →
      step s =
        match exec i { s with pending := rest, busy := true } with
        | .next t => .next { t with busy := false }
        | .fault r => .fault r
        | .refused r => .refused r

/-- The same for a call of a public operation (R4, R145; one operation is one step by log 28). -/
def Obligations.StepRunsHostOperation : Prop :=
  ∀ (s : State) (op : HostOp) (rest : List Presented),
    s.busy = false → s.pending = .call op :: rest →
      step s =
        match hostExec op { s with pending := rest, busy := true } with
        | .next t => .next { t with busy := false }
        | .fault r => .fault r
        | .refused r => .refused r

/-- A reserved command word changes nothing but REJ, which becomes 3, and the block is ready for the next command (R54,
R160; the spec's decisions D13, D14). -/
def Obligations.ReservedWordWritesOnlyRej : Prop :=
  ∀ (s : State) (w : BitVec 32) (rest : List Presented),
    s.busy = false → s.pending = .command (.word w) :: rest →
    w &&& 0xFF000000#32 ≠ 0x00000000#32 → w &&& 0xFFFFFFFE#32 ≠ 0x10000000#32 →
      step s = .next { s with pending := rest, rej := .invalidValue } ∧ RejKind.invalidValue.code = 3#2

/-- With nothing presented the block waits unchanged; what is presented while BUSY is set stops (the model's choices, log
6 and log 16; U2). -/
def Obligations.StepWaitsAndGuardsBusy : Prop :=
  (∀ s : State, s.pending = [] → step s = .next s) ∧
    ∀ (s : State) (p : Presented) (rest : List Presented),
      s.busy = true → s.pending = p :: rest → step s = .fault .presentedWhileBusy

/-! ## Reset -/

/-- The state after reset, for every NCFG and ACC_INIT, and the values of `State.reset` (R24, R25, R180; CA, SEL and the
accumulators are the spec's decisions D6, D8, D7; NCFG = 8 in `State.reset` is log 1, and `pending` and `ret` are the
model's own fields, log 6 and log 9). -/
def Obligations.ResetState : Prop :=
  (∀ (ncfg : Int) (accInit : Vector Byte 8),
    State.resetWith ncfg accInit =
      { n := if 1 ≤ ncfg ∧ ncfg ≤ 8 then ncfg.toNat else 8, ca := false, acc := accInit, sel := true, rej := .none,
        bus := [], busy := false, mirror := [], pending := [], ret := none }) ∧
    (∀ (ncfg : Int) (accInit : Vector Byte 8) (c r : Nat), (State.resetWith ncfg accInit).mirrorAt c r = 0x00#8) ∧
    State.reset = State.resetWith Config.ncfg (Vector.replicate 8 0x00#8)

/-- The chip count is NCFG inside 1..8, and 8 for every other value, zero and negatives too (R6, C1). -/
def Obligations.ChipCountClamp : Prop :=
  ∀ (ncfg : Int) (accInit : Vector Byte 8),
    (1 ≤ ncfg → ncfg ≤ 8 → ((State.resetWith ncfg accInit).n : Int) = ncfg) ∧
      ((ncfg < 1 ∨ 8 < ncfg) → (State.resetWith ncfg accInit).n = 8) ∧
      1 ≤ (State.resetWith ncfg accInit).n ∧ (State.resetWith ncfg accInit).n ≤ 8

/-! ## One frame -/

/-- XMIT completes for every chip of the chain and writes SEL and BUS only: one frame (R110, R56). The byte order inside
a pair is the spec's decision D10. -/
def Obligations.XmitCompletes : Prop :=
  ∀ (s : State) (c : Int) (op d : Byte), 0 ≤ c → c < s.n →
    exec (.xmit c op d) s = .next { s with sel := true, bus := s.bus ++ frameEvents s.n c.toNat op d }

/-- XMIT with a chip index outside 0..N-1 is refused, never clamped or wrapped (R119, U11; log 8). -/
def Obligations.XmitOutsideRefused : Prop :=
  ∀ (s : State) (c : Int) (op d : Byte), (c < 0 ∨ (s.n : Int) ≤ c) → exec (.xmit c op d) s = .refused .xmitChipRange

/-- Exactly one (opcode, data) pair per chip, every chip but the addressed one receiving (NOOP, 0); an all-zero pair makes
an all-zero frame (R115). -/
def Obligations.OnePairPerChip : Prop :=
  ∀ (s : State) (c : Nat) (op d : Byte), c < s.n →
    ∃ (t : State) (frame : List Byte), exec (.xmit c op d) s = .next t ∧ framesOf t.bus = framesOf s.bus ++ [frame] ∧
      frame.length = 2 * s.n ∧
      (∀ k < s.n, committedPair frame k = some (if k = c then (op, d) else (0x00#8, 0x00#8))) ∧
      (op = 0x00#8 → d = 0x00#8 → frame = List.replicate (2 * s.n) 0x00#8)

/-- Where the bytes stand on the wire: chip c's opcode at 2(N-1-c), its data after it, all others zero (R114; the pair's
order is the spec's decision D10). -/
def Obligations.WirePositions : Prop :=
  ∀ (s : State) (c : Nat) (op d : Byte), c < s.n →
    ∃ (t : State) (frame : List Byte), exec (.xmit c op d) s = .next t ∧
      t.bus = s.bus ++ .selLow :: (frame.map .byte ++ [.selHigh]) ∧ frame.length = 2 * s.n ∧
      frame[2 * (s.n - 1 - c)]? = some op ∧ frame[2 * (s.n - 1 - c) + 1]? = some d ∧
      ∀ j < 2 * s.n, j ≠ 2 * (s.n - 1 - c) → j ≠ 2 * (s.n - 1 - c) + 1 → frame[j]? = some 0x00#8

/-- Shifted through a chain of `m` fitted chips, whatever their registers held, the frame leaves every chip below N its
own pair (R34, R118, R191). -/
def Obligations.FrameReachesItsChips : Prop :=
  ∀ (s : State) (c : Nat) (op d : Byte), c < s.n →
    ∃ (t : State) (frame : List Byte), exec (.xmit c op d) s = .next t ∧ framesOf t.bus = framesOf s.bus ++ [frame] ∧
      ∀ (m : Nat) (sr : List (Option Byte)), sr.length = 2 * m → ∀ k < m, k < s.n →
        heldPair (shiftIn sr frame) k = some (if k = c then (op, d) else (0x00#8, 0x00#8))

/-! ## Register writes and MODE: results and frames -/

/-- MODE writes CA and REJ and nothing else (R91; that it leaves ACC alone is the spec's decision D12). -/
def Obligations.ModeCompletes : Prop :=
  ∀ (s : State) (m : Bool), exec (.mode m) s = .next { s with ca := m, rej := .none }

/-- WR on the passthrough path: any opcode in common-cathode mode, an opcode outside 1..8 in either mode; one frame with
the opcode and the data unchanged, and nothing else but REJ and SEL written (R90, R93, R59; D10, D12). -/
def Obligations.WrPassthroughCompletes : Prop :=
  ∀ (s : State) (addr : Int) (op d : Byte), 0 ≤ addr → addr < s.n →
    (s.ca = false ∨ op.toNat = 0 ∨ 9 ≤ op.toNat) →
      exec (.wr addr op d) s =
        .next { s with rej := .none, sel := true, bus := s.bus ++ frameEvents s.n addr.toNat op d }

/-- WR on the remap path: the accumulators by R94 to R96, then registers 1 to 8 of the same chip in order, each frame
with the updated accumulator (R90, R97; ascending order is the spec's decision D11, the pair's order D10). -/
def Obligations.WrRemapCompletes : Prop :=
  ∀ (s : State) (addr : Int) (op d : Byte), 0 ≤ addr → addr < s.n → s.ca = true → 1 ≤ op.toNat → op.toNat ≤ 8 →
    exec (.wr addr op d) s =
      .next (s.afterRemap addr.toNat (if op.toNat = 8 then 7 else 7 - op.toNat) d)

/-- NOOP, DECODE-MODE, INTENSITY, SCAN-LIMIT, SHUTDOWN and DISPLAY-TEST complete in both modes: one frame, ACC unchanged
(R71, R80 to R84; the pair's order is the spec's decision D10). -/
def Obligations.PassthroughRegistersComplete : Prop :=
  ∀ (s : State) (c : Int) (d : Byte), 0 ≤ c → c < s.n →
    exec (.noop c d) s = .next (s.afterPassthrough c.toNat 0x00#8 d) ∧
    exec (.decodeMode c d) s = .next (s.afterPassthrough c.toNat 0x09#8 d) ∧
    exec (.intensity c d) s = .next (s.afterPassthrough c.toNat 0x0A#8 d) ∧
    exec (.scanLimit c d) s = .next (s.afterPassthrough c.toNat 0x0B#8 d) ∧
    exec (.shutdown c d) s = .next (s.afterPassthrough c.toNat 0x0C#8 d) ∧
    exec (.displayTest c d) s = .next (s.afterPassthrough c.toNat 0x0F#8 d)

/-- An opcode with no register (13, 14, 16..255) completes in both modes: passed through, ACC unchanged (R85; the pair's
order is the spec's decision D10). -/
def Obligations.UndefinedOpcodesPassThrough : Prop :=
  ∀ (s : State) (c : Int) (op d : Byte), 0 ≤ c → c < s.n → wellFormed (.undefined 0 op d) = true →
    exec (.undefined c op d) s = .next (s.afterPassthrough c.toNat op d)

/-- DIGIT0 to DIGIT7 complete in common-cathode mode: one frame, ACC unchanged (R72 to R79; D10, D12). -/
def Obligations.DigitsCompleteCommonCathode : Prop :=
  ∀ (s : State) (c : Int) (d : Byte), 0 ≤ c → c < s.n → s.ca = false →
    exec (.digit0 c d) s = .next (s.afterPassthrough c.toNat 0x01#8 d) ∧
    exec (.digit1 c d) s = .next (s.afterPassthrough c.toNat 0x02#8 d) ∧
    exec (.digit2 c d) s = .next (s.afterPassthrough c.toNat 0x03#8 d) ∧
    exec (.digit3 c d) s = .next (s.afterPassthrough c.toNat 0x04#8 d) ∧
    exec (.digit4 c d) s = .next (s.afterPassthrough c.toNat 0x05#8 d) ∧
    exec (.digit5 c d) s = .next (s.afterPassthrough c.toNat 0x06#8 d) ∧
    exec (.digit6 c d) s = .next (s.afterPassthrough c.toNat 0x07#8 d) ∧
    exec (.digit7 c d) s = .next (s.afterPassthrough c.toNat 0x08#8 d)

/-- DIGIT0 to DIGIT7 complete in common-anode mode: remapped with write index 6, 5, 4, 3, 2, 1, 0, 7 (R72 to R79; D10,
D11). -/
def Obligations.DigitsCompleteCommonAnode : Prop :=
  ∀ (s : State) (c : Int) (d : Byte), 0 ≤ c → c < s.n → s.ca = true →
    exec (.digit0 c d) s = .next (s.afterRemap c.toNat 6 d) ∧
    exec (.digit1 c d) s = .next (s.afterRemap c.toNat 5 d) ∧
    exec (.digit2 c d) s = .next (s.afterRemap c.toNat 4 d) ∧
    exec (.digit3 c d) s = .next (s.afterRemap c.toNat 3 d) ∧
    exec (.digit4 c d) s = .next (s.afterRemap c.toNat 2 d) ∧
    exec (.digit5 c d) s = .next (s.afterRemap c.toNat 1 d) ∧
    exec (.digit6 c d) s = .next (s.afterRemap c.toNat 0 d) ∧
    exec (.digit7 c d) s = .next (s.afterRemap c.toNat 7 d)

/-- Each register row is the WR of its register, in every state and for every address (R70). -/
def Obligations.RegisterRowsAreWr : Prop :=
  ∀ (i : Instr) (s : State) (addr : Int) (op d : Byte),
    asWrite i = some (addr, op, d) → exec i s = exec (.wr addr op d) s

/-- WR and every register row: a chip address outside 0..N-1 drops the write in either mode, and only REJ is written
(R70, R92; the check at this port is the spec's decision D5). -/
def Obligations.WriteOutOfRangeDropped : Prop :=
  ∀ (i : Instr) (s : State) (addr : Int) (op d : Byte),
    asWrite i = some (addr, op, d) → (addr < 0 ∨ (s.n : Int) ≤ addr) →
      exec i s = .next { s with rej := .invalidAddress }

/-! ## The remap -/

/-- Read index, write index, accumulate: bit w(op) of every accumulator takes bit r(cS) of the data, the other seven bits
keep their values (R94, R95, R96). -/
def Obligations.RemapWritesOneBit : Prop :=
  ∀ (s : State) (addr : Int) (op d : Byte), 0 ≤ addr → addr < s.n → s.ca = true → 1 ≤ op.toNat → op.toNat ≤ 8 →
    ∃ t, exec (.wr addr op d) s = .next t ∧
      ∀ (cS : Fin 8) (j : Nat), j < 8 →
        t.acc[cS].getLsbD j =
          if j = (if op.toNat = 8 then 7 else 7 - op.toNat) then d.getLsbD (if cS.val = 7 then 7 else 6 - cS.val)
          else s.acc[cS].getLsbD j

/-- One command, one bit per accumulator, eight frames: no bit but w(op) of any accumulator changes, and eight frames are
sent whatever the data, also where no accumulator changed (R102). -/
def Obligations.RemapSendsEightFrames : Prop :=
  ∀ (s : State) (addr : Int) (op d : Byte), 0 ≤ addr → addr < s.n → s.ca = true → 1 ≤ op.toNat → op.toNat ≤ 8 →
    ∃ (t : State) (frames : List (List Byte)), exec (.wr addr op d) s = .next t ∧
      framesOf t.bus = framesOf s.bus ++ frames ∧ frames.length = 8 ∧ (∀ f ∈ frames, f.length = 2 * s.n) ∧
      t.bus.length = s.bus.length + 8 * (2 * s.n + 2) ∧
      ∀ (cS : Fin 8) (j : Nat), j < 8 → j ≠ (if op.toNat = 8 then 7 else 7 - op.toNat) →
        t.acc[cS].getLsbD j = s.acc[cS].getLsbD j

/-- Repeating a remapped write leaves ACC as the first left it and sends the same events again (R41). -/
def Obligations.RepeatedRemapResends : Prop :=
  ∀ (s : State) (addr : Int) (op d : Byte), 0 ≤ addr → addr < s.n → s.ca = true → 1 ≤ op.toNat → op.toNat ≤ 8 →
    ∃ t u sent, exec (.wr addr op d) s = .next t ∧ exec (.wr addr op d) t = .next u ∧
      u.acc = t.acc ∧ t.bus = s.bus ++ sent ∧ u.bus = t.bus ++ sent ∧ sent ≠ []

/-- After the eight digit writes in any order, every accumulator bit w(op) is bit r(cS) of that digit's byte: the permuted
transpose (R101). -/
def Obligations.TransposeInAnyOrder : Prop :=
  ∀ (s : State) (addr : Int) (D : Fin 8 → Byte) (order : List (Fin 8)),
    0 ≤ addr → addr < s.n → s.ca = true → order.Perm (List.finRange 8) →
      ∃ t, execAll (order.map fun k => .wr addr (BitVec.ofNat 8 (k.val + 1)) (D k)) s = .next t ∧
        ∀ cS k : Fin 8,
          t.acc[cS].getLsbD (if k.val = 7 then 7 else 6 - k.val) =
            (D k).getLsbD (if cS.val = 7 then 7 else 6 - cS.val)

/-- One accumulator file for the whole chain: after a remapped write to chip a and one of another digit to chip b, chip b
holds accumulators that still carry the bits written for chip a (R103, R13). -/
def Obligations.AccumulatorsAreShared : Prop :=
  ∀ (s : State) (a b : Nat) (op op' d d' : Byte), a < s.n → b < s.n → s.ca = true →
    1 ≤ op.toNat → op.toNat ≤ 8 → 1 ≤ op'.toNat → op'.toNat ≤ 8 → op ≠ op' →
      ∃ t u, exec (.wr a op d) s = .next t ∧ exec (.wr b op' d') t = .next u ∧
        ∀ cS : Fin 8,
          u.acc[cS].getLsbD (if op.toNat = 8 then 7 else 7 - op.toNat) =
            d.getLsbD (if cS.val = 7 then 7 else 6 - cS.val) ∧
          lastWrite u.bus b (BitVec.ofNat 8 (cS.val + 1)) = some u.acc[cS]

/-- Stage A is a pure function of CA, ACC, N and the command, and the block is stage A then stage B on its requests, in
order (R104). -/
def Obligations.StageAThenStageB : Prop :=
  ∀ (s : State),
    (∀ (addr : Int) (op d : Byte),
      exec (.wr addr op d) s =
        .next (stageB (stageA s.ca s.acc s.n (.wr addr op d)).requests
          { s with
            ca := (stageA s.ca s.acc s.n (.wr addr op d)).ca, acc := (stageA s.ca s.acc s.n (.wr addr op d)).acc,
            rej := (stageA s.ca s.acc s.n (.wr addr op d)).rej })) ∧
    (∀ m : Bool,
      exec (.mode m) s =
        .next (stageB (stageA s.ca s.acc s.n (.mode m)).requests
          { s with
            ca := (stageA s.ca s.acc s.n (.mode m)).ca, acc := (stageA s.ca s.acc s.n (.mode m)).acc,
            rej := (stageA s.ca s.acc s.n (.mode m)).rej })) ∧
    (∀ (cmd : Command) (r : Request), r ∈ (stageA s.ca s.acc s.n cmd).requests → r.c < s.n)

/-! ## The chain's view -/

/-- A passthrough write of a register other than NOOP changes exactly that register of exactly that chip, and a write of
opcode 0 changes none (R118, R60, the spec's decision D26; "leaving others untouched"). -/
def Obligations.PassthroughChangesOneChipRegister : Prop :=
  ∀ (s : State) (addr : Int) (op d : Byte), 0 ≤ addr → addr < s.n →
    (s.ca = false ∨ op.toNat = 0 ∨ 9 ≤ op.toNat) →
      ∃ t, exec (.wr addr op d) s = .next t ∧
        ∀ (k : Nat) (p : Byte), k < s.n →
          lastWrite t.bus k p =
            if k = addr.toNat ∧ p = op ∧ p ≠ 0x00#8 then some d else lastWrite s.bus k p

/-- A remapped write leaves in registers 1 to 8 of the addressed chip the eight accumulators, and every other register of
every chip as it was (R97, R118, R43; the spec's decision D26). -/
def Obligations.RemapFillsTheEightRegisters : Prop :=
  ∀ (s : State) (addr : Int) (op d : Byte), 0 ≤ addr → addr < s.n → s.ca = true → 1 ≤ op.toNat → op.toNat ≤ 8 →
    ∃ t, exec (.wr addr op d) s = .next t ∧
      (∀ cS : Fin 8, lastWrite t.bus addr.toNat (BitVec.ofNat 8 (cS.val + 1)) = some t.acc[cS]) ∧
      ∀ (k : Nat) (p : Byte), k < s.n → (k ≠ addr.toNat ∨ p.toNat = 0 ∨ 9 ≤ p.toNat) →
        lastWrite t.bus k p = lastWrite s.bus k p

/-! ## Whole-machine rules -/

/-- Only MODE writes CA, and only a register write in common-anode mode whose opcode is 1..8 writes ACC (R12, R13, R93). -/
def Obligations.OnlyModeWritesWiringOnlyRemapWritesAcc : Prop :=
  ∀ (i : Instr) (s t : State), exec i s = .next t →
    ((∀ m, i ≠ .mode m) → t.ca = s.ca) ∧
      (t.acc ≠ s.acc →
        s.ca = true ∧ ∃ addr op d, asWrite i = some (addr, op, d) ∧ 1 ≤ op.toNat ∧ op.toNat ≤ 8 ∧
          0 ≤ addr ∧ addr < s.n)

/-- No instruction writes N or the mirror, the host's list, its return value or BUSY (R11, R22, R105). -/
def Obligations.InstructionsLeaveCountAndHostAlone : Prop :=
  ∀ (i : Instr) (s t : State), exec i s = .next t →
    t.n = s.n ∧ t.mirror = s.mirror ∧ t.pending = s.pending ∧ t.ret = s.ret ∧ t.busy = s.busy ∧
      (s.sel = true → t.sel = true)

/-- The bus only grows, and by whole frames: no command erases, merges or reorders what is on it (R41, R44). -/
def Obligations.InstructionsAppendWholeFrames : Prop :=
  ∀ (i : Instr) (s t : State), exec i s = .next t →
    ∃ frames : List (List Byte), t.bus = s.bus ++ frames.flatMap bracketed ∧
      framesOf t.bus = framesOf s.bus ++ frames ∧ frames.length ≤ 8 ∧
      (∀ f ∈ frames, f.length = 2 * s.n) ∧ t.bus.length ≤ s.bus.length + 8 * (2 * s.n + 2)

/-- The no-mutation guarantee: a rejected command or operation changes none of N, CA, ACC, SEL, BUS, MIRROR (R161). What
it writes to REJ is said in `RejectionReportsItsKind`, and a reserved command word in `ReservedWordWritesOnlyRej`. -/
def Obligations.RejectionChangesNothing : Prop :=
  (∀ (i : Instr) (s t : State), exec i s = .next t → (∀ c op d, i ≠ .xmit c op d) → t.rej ≠ .none →
    t.n = s.n ∧ t.ca = s.ca ∧ t.acc = s.acc ∧ t.sel = s.sel ∧ t.bus = s.bus ∧ t.mirror = s.mirror ∧
      t.busy = s.busy ∧ t.pending = s.pending ∧ t.ret = s.ret) ∧
  (∀ (op : HostOp) (s t : State) (kind : RejKind), hostExec op s = .next t → t.ret = some ⟨kind, none⟩ → kind ≠ .none →
    t.n = s.n ∧ t.ca = s.ca ∧ t.acc = s.acc ∧ t.sel = s.sel ∧ t.bus = s.bus ∧ t.mirror = s.mirror ∧
      t.busy = s.busy ∧ t.pending = s.pending)

/-- What an operation that issues a command reports to its caller is what REJ holds after it; WR leaves None or
InvalidAddress (R16, R153, R162; REJ and its codes are the spec's decision D13). -/
def Obligations.RejectionReportsItsKind : Prop :=
  (∀ (op : HostOp) (s t : State) (kind : RejKind), hostExec op s = .next t → t.ret = some ⟨kind, none⟩ →
    t.rej = kind) ∧
  (∀ (i : Instr) (s t : State), exec i s = .next t → (∀ c op d, i ≠ .xmit c op d) →
    t.rej = .none ∨ t.rej = .invalidAddress) ∧
  RejKind.none.code = 0#2 ∧ RejKind.invalidAddress.code = 1#2 ∧ RejKind.invalidCoordinate.code = 2#2 ∧
    RejKind.invalidValue.code = 3#2

/-! ## The invariant -/

/-- Every step keeps the invariant: N in 1..8, select high and BUSY clear between commands, the bus a sequence of whole
frames of 2N bytes each addressed to at most one chip, the mirror in canonical form inside its 8N bytes. -/
def Obligations.StepKeepsInvariant : Prop :=
  ∀ s t : State, s.Inv → step s = .next t → t.Inv

/-- The invariant holds after reset, for every NCFG and ACC_INIT. -/
def Obligations.ResetMeetsInvariant : Prop :=
  (∀ (ncfg : Int) (accInit : Vector Byte 8), (State.resetWith ncfg accInit).Inv) ∧ State.reset.Inv

/-- From a state that meets the invariant no presented command or operation faults; it is refused only as XMIT outside
the chain (R119, log 8), or as getRow or getLed with a chip outside 0..N-1, or a row or column outside 0..7 (R143, R144;
the refusal is the spec's decision D21, log 27). -/
def Obligations.StepStopsOnlyByName : Prop :=
  ∀ s : State, s.Inv →
    (∃ t, step s = .next t) ∨
      (step s = .refused .xmitChipRange ∧ ∃ c op d rest, s.pending = .command (.request c op d) :: rest ∧
        (c < 0 ∨ (s.n : Int) ≤ c)) ∨
      (step s = .refused .getterRange ∧ ∃ chip row rest, s.pending = .call (.getRow chip row) :: rest ∧
        (chip < 0 ∨ (s.n : Int) ≤ chip ∨ row < 0 ∨ 7 < row)) ∨
      (step s = .refused .getterRange ∧ ∃ chip row col rest, s.pending = .call (.getLed chip row col) :: rest ∧
        (chip < 0 ∨ (s.n : Int) ≤ chip ∨ row < 0 ∨ 7 < row ∨ col < 0 ∨ 7 < col))

/-! ## The host layer -/

/-- `construct`: reset with NCFG = chipCount, mirror zero, then for each chip DECODE-MODE 0 and SHUTDOWN 0; it cannot be
rejected (R131, R182; the sequence is the spec's decision D16, the pair's order D10; that the host's own list stays is
log 14). -/
def Obligations.ConstructResetsAndBoots : Prop :=
  ∀ (s : State) (p1 p2 p3 chipCount : Int),
    hostExec (.construct p1 p2 p3 chipCount) s =
      .next { State.resetWith chipCount (Vector.replicate 8 0x00#8) with
        bus := (List.range (clampCount chipCount)).flatMap fun c =>
          frameEvents (clampCount chipCount) c 0x09#8 0x00#8 ++ frameEvents (clampCount chipCount) c 0x0C#8 0x00#8
        busy := s.busy, pending := s.pending, ret := some ⟨.none, none⟩ }

/-- `setCommonAnode(b)` expands to `MODE b`: no validation, no mirror access, no bus output (R133). -/
def Obligations.SetCommonAnodeIsMode : Prop :=
  ∀ (s : State) (b : Bool),
    ∃ t, exec (.mode b) s = .next t ∧ t.ca = b ∧ t.mirror = s.mirror ∧ t.bus = s.bus ∧
      hostExec (.setCommonAnode b) s = .next { t with ret := some ⟨.none, none⟩ }

/-- The getters answer and change nothing but what the caller is given; out of range `getRow` and `getLed` are refused
(R132, R143, R144; the refusal is the spec's decision D21, log 27). -/
def Obligations.GettersAnswer : Prop :=
  (∀ s : State, hostExec .getChipCount s = .next { s with ret := some ⟨.none, some (.count s.n)⟩ }) ∧
  (∀ (s : State) (chip row : Int), 0 ≤ chip → chip < s.n → 0 ≤ row → row ≤ 7 →
    hostExec (.getRow chip row) s =
      .next { s with ret := some ⟨.none, some (.row (s.mirrorAt chip.toNat row.toNat))⟩ }) ∧
  (∀ (s : State) (chip row col : Int), 0 ≤ chip → chip < s.n → 0 ≤ row → row ≤ 7 → 0 ≤ col → col ≤ 7 →
    hostExec (.getLed chip row col) s =
      .next { s with ret := some ⟨.none, some (.pixel ((s.mirrorAt chip.toNat row.toNat).getLsbD (7 - col.toNat)))⟩ }) ∧
  (∀ (s : State) (chip row : Int), (chip < 0 ∨ (s.n : Int) ≤ chip ∨ row < 0 ∨ 7 < row) →
    hostExec (.getRow chip row) s = .refused .getterRange) ∧
  (∀ (s : State) (chip row col : Int), (chip < 0 ∨ (s.n : Int) ≤ chip ∨ row < 0 ∨ 7 < row ∨ col < 0 ∨ 7 < col) →
    hostExec (.getLed chip row col) s = .refused .getterRange)

/-- `shutdown`, `setScanLimit` and `setIntensity` expand to the WR of opcodes 12, 11, 10: shutdown with its polarity
inverted, the others with their value in 0..7 and 0..15; passthrough in both modes, no mirror access; an invalid chip or
value drops them, and the caller is told which (R134, R135, R136; that a bad chip is reported whatever the limit or value
is the order of the checks, the spec's decision D15, log 26; what a drop writes to REJ is left open here). -/
def Obligations.ConfigurationOperationsExpand : Prop :=
  (∀ (s : State) (chip : Int) (enter : Bool), 0 ≤ chip → chip < s.n →
    ∃ t, exec (.wr chip 0x0C#8 (if enter then 0x00#8 else 0x01#8)) s = .next t ∧ t.mirror = s.mirror ∧ t.acc = s.acc ∧
      t.bus = s.bus ++ frameEvents s.n chip.toNat 0x0C#8 (if enter then 0x00#8 else 0x01#8) ∧
      hostExec (.shutdown chip enter) s = .next { t with ret := some ⟨.none, none⟩ }) ∧
  (∀ (s : State) (chip limit : Int), 0 ≤ chip → chip < s.n → 0 ≤ limit → limit ≤ 7 →
    ∃ t v, (v : Byte).toNat = limit.toNat ∧ exec (.wr chip 0x0B#8 v) s = .next t ∧ t.mirror = s.mirror ∧
      t.acc = s.acc ∧ hostExec (.setScanLimit chip limit) s = .next { t with ret := some ⟨.none, none⟩ }) ∧
  (∀ (s : State) (chip value : Int), 0 ≤ chip → chip < s.n → 0 ≤ value → value ≤ 15 →
    ∃ t v, (v : Byte).toNat = value.toNat ∧ exec (.wr chip 0x0A#8 v) s = .next t ∧ t.mirror = s.mirror ∧
      t.acc = s.acc ∧ hostExec (.setIntensity chip value) s = .next { t with ret := some ⟨.none, none⟩ }) ∧
  (∀ (s : State) (chip : Int) (enter : Bool), (chip < 0 ∨ (s.n : Int) ≤ chip) →
    ∃ r, hostExec (.shutdown chip enter) s = .next { s with rej := r, ret := some ⟨.invalidAddress, none⟩ }) ∧
  (∀ (s : State) (chip v : Int), (chip < 0 ∨ (s.n : Int) ≤ chip) →
    ∃ r, hostExec (.setScanLimit chip v) s = .next { s with rej := r, ret := some ⟨.invalidAddress, none⟩ } ∧
      hostExec (.setIntensity chip v) s = .next { s with rej := r, ret := some ⟨.invalidAddress, none⟩ }) ∧
  (∀ (s : State) (chip limit : Int), 0 ≤ chip → chip < s.n → (limit < 0 ∨ 7 < limit) →
    ∃ r, hostExec (.setScanLimit chip limit) s = .next { s with rej := r, ret := some ⟨.invalidValue, none⟩ }) ∧
  (∀ (s : State) (chip value : Int), 0 ≤ chip → chip < s.n → (value < 0 ∨ 15 < value) →
    ∃ r, hostExec (.setIntensity chip value) s = .next { s with rej := r, ret := some ⟨.invalidValue, none⟩ })

/-- `setRow` stores the byte in the mirror and issues the WR of register row + 1 with it, a read gives it back exactly,
and every other mirror byte stays; an invalid chip or row drops it, and the caller is told which (R139; the mirror in
canonical form; that a bad chip is reported whatever the row is the order of the checks, the spec's decision D15, log 26;
what a drop writes to REJ is left open here). -/
def Obligations.SetRowStoresAndSends : Prop :=
  (∀ (s : State) (chip row : Int) (v : Byte), 0 ≤ chip → chip < s.n → 0 ≤ row → row ≤ 7 → Memory.wf s.mirror = true →
    ∃ t, exec (.wr chip (BitVec.ofNat 8 (row.toNat + 1)) v) (s.setMirror chip.toNat row.toNat v) = .next t ∧
      hostExec (.setRow chip row v) s = .next { t with ret := some ⟨.none, none⟩ } ∧
      t.mirrorAt chip.toNat row.toNat = v ∧
      (∀ c r : Nat, r < 8 → (c ≠ chip.toNat ∨ r ≠ row.toNat) → t.mirrorAt c r = s.mirrorAt c r) ∧
      hostExec (.getRow chip row) { t with ret := some ⟨.none, none⟩ } =
        .next { t with ret := some ⟨.none, some (.row v)⟩ }) ∧
  (∀ (s : State) (chip row : Int) (v : Byte), (chip < 0 ∨ (s.n : Int) ≤ chip) →
    ∃ r, hostExec (.setRow chip row v) s = .next { s with rej := r, ret := some ⟨.invalidAddress, none⟩ }) ∧
  (∀ (s : State) (chip row : Int) (v : Byte), 0 ≤ chip → chip < s.n → (row < 0 ∨ 7 < row) →
    ∃ r, hostExec (.setRow chip row v) s = .next { s with rej := r, ret := some ⟨.invalidCoordinate, none⟩ })

/-- `setLed` changes exactly its pixel of the mirror (bit 7 - col of the row's byte) and issues the WR of the row's byte,
even if it did not change; an invalid chip, row or column drops it, and the caller is told which (R138; that
a bad chip is reported whatever the row and column are is the order of the checks, the spec's decision D15, log 26; what a
drop writes to REJ is left open here). -/
def Obligations.SetLedChangesOnePixel : Prop :=
  (∀ (s : State) (chip row col : Int) (on : Bool), 0 ≤ chip → chip < s.n → 0 ≤ row → row ≤ 7 → 0 ≤ col → col ≤ 7 →
    Memory.wf s.mirror = true →
    ∃ t v, exec (.wr chip (BitVec.ofNat 8 (row.toNat + 1)) v) (s.setMirror chip.toNat row.toNat v) = .next t ∧
      hostExec (.setLed chip row col on) s = .next { t with ret := some ⟨.none, none⟩ } ∧
      t.mirrorAt chip.toNat row.toNat = v ∧
      (∀ k : Nat, k < 8 → v.getLsbD (7 - k) =
        if k = col.toNat then on else (s.mirrorAt chip.toNat row.toNat).getLsbD (7 - k)) ∧
      ∀ c r : Nat, r < 8 → (c ≠ chip.toNat ∨ r ≠ row.toNat) → t.mirrorAt c r = s.mirrorAt c r) ∧
  (∀ (s : State) (chip row col : Int) (on : Bool), (chip < 0 ∨ (s.n : Int) ≤ chip) →
    ∃ r, hostExec (.setLed chip row col on) s = .next { s with rej := r, ret := some ⟨.invalidAddress, none⟩ }) ∧
  (∀ (s : State) (chip row col : Int) (on : Bool), 0 ≤ chip → chip < s.n →
    (row < 0 ∨ 7 < row ∨ col < 0 ∨ 7 < col) →
    ∃ r, hostExec (.setLed chip row col on) s = .next { s with rej := r, ret := some ⟨.invalidCoordinate, none⟩ })

/-- Setting the same pixel twice gives the mirror of once, and each call still transmits (R187, S3). -/
def Obligations.SetLedTwiceStillTransmits : Prop :=
  ∀ (s : State) (chip row col : Int), 0 ≤ chip → chip < s.n → 0 ≤ row → row ≤ 7 → 0 ≤ col → col ≤ 7 →
    Memory.wf s.mirror = true →
    ∃ t u sent, hostExec (.setLed chip row col true) s = .next t ∧ hostExec (.setLed chip row col true) t = .next u ∧
      (∀ c r : Nat, r < 8 → u.mirrorAt c r = t.mirrorAt c r) ∧ t.bus = s.bus ++ sent ∧ u.bus = t.bus ++ sent ∧
      sent ≠ [] ∧ u.acc = t.acc

/-- `setColumn` is eight `setLed` calls, rows 0 to 7 in order, bit 7 - row of the byte to each: so pixel (row, col) of every
row takes that bit, every other pixel of the mirror stays, and 8 frames go out in common-cathode mode, 64 in
common-anode mode; an invalid chip or column drops it, and the caller is told which (R140; that a bad chip is reported
whatever the column is the order of the checks, the spec's decision D15, log 26; what a drop writes to REJ is left open
here). -/
def Obligations.SetColumnIsEightSetLeds : Prop :=
  (∀ (s : State) (chip col : Int) (v : Byte), 0 ≤ chip → chip < s.n → 0 ≤ col → col ≤ 7 → Memory.wf s.mirror = true →
    ∃ (t : State) (frames : List (List Byte)), hostExec (.setColumn chip col v) s = .next t ∧
      callAll [.setLed chip 0 col (v.getLsbD 7), .setLed chip 1 col (v.getLsbD 6), .setLed chip 2 col (v.getLsbD 5),
        .setLed chip 3 col (v.getLsbD 4), .setLed chip 4 col (v.getLsbD 3), .setLed chip 5 col (v.getLsbD 2),
        .setLed chip 6 col (v.getLsbD 1), .setLed chip 7 col (v.getLsbD 0)] s = .next t ∧
      framesOf t.bus = framesOf s.bus ++ frames ∧ frames.length = (if s.ca then 64 else 8) ∧
      t.ret = some ⟨.none, none⟩ ∧ t.ca = s.ca ∧ t.n = s.n ∧
      ∀ c r k : Nat, r < 8 → k < 8 → (t.mirrorAt c r).getLsbD (7 - k) =
        if c = chip.toNat ∧ k = col.toNat then v.getLsbD (7 - r) else (s.mirrorAt c r).getLsbD (7 - k)) ∧
  (∀ (s : State) (chip col : Int) (v : Byte), (chip < 0 ∨ (s.n : Int) ≤ chip) →
    ∃ r, hostExec (.setColumn chip col v) s = .next { s with rej := r, ret := some ⟨.invalidAddress, none⟩ }) ∧
  (∀ (s : State) (chip col : Int) (v : Byte), 0 ≤ chip → chip < s.n → (col < 0 ∨ 7 < col) →
    ∃ r, hostExec (.setColumn chip col v) s = .next { s with rej := r, ret := some ⟨.invalidCoordinate, none⟩ })

/-- `clearDisplay` is eight `setRow` calls with 0, rows 0 to 7: it zeroes the chip's eight rows and no other chip's, and sends
the eight registers: 8 frames in common-cathode mode with ACC unchanged, 64 in common-anode mode after which ACC is all
zero; an invalid chip drops it (R137; the order is the spec's decision D19, REJ is D13). -/
def Obligations.ClearDisplayZeroesTheChip : Prop :=
  (∀ (s : State) (chip : Int), 0 ≤ chip → chip < s.n → Memory.wf s.mirror = true →
    ∃ (t : State) (frames : List (List Byte)), hostExec (.clearDisplay chip) s = .next t ∧
      callAll ([0, 1, 2, 3, 4, 5, 6, 7].map fun row => .setRow chip row 0x00#8) s = .next t ∧
      framesOf t.bus = framesOf s.bus ++ frames ∧ frames.length = (if s.ca then 64 else 8) ∧
      t.acc = (if s.ca then Vector.replicate 8 0x00#8 else s.acc) ∧
      t.rej = .none ∧ t.ret = some ⟨.none, none⟩ ∧ t.ca = s.ca ∧ t.n = s.n ∧
      ∀ c r : Nat, r < 8 → t.mirrorAt c r = if c = chip.toNat then 0x00#8 else s.mirrorAt c r) ∧
  (∀ (s : State) (chip : Int), (chip < 0 ∨ (s.n : Int) ≤ chip) →
    hostExec (.clearDisplay chip) s =
      .next { s with rej := .invalidAddress, ret := some ⟨.invalidAddress, none⟩ })

/-- `setDigit` and `setChar`: the glyph with bit 7 ORed in for the decimal point goes to the mirror, and the same byte,
flipped if `reverse`, to register digit + 1; a digit value is 0..15; a character above 127 is the space's glyph (R141,
R142, R152; the flip before the remap is the spec's decision D17, the digit's bound D18, code 32 for space D20). -/
def Obligations.SetDigitAndSetCharStoreGlyphs : Prop :=
  (∀ (s : State) (chip digit value : Int) (dp rev : Bool) (k : Fin 128), 0 ≤ chip → chip < s.n → 0 ≤ digit →
    digit ≤ 7 → 0 ≤ value → value ≤ 15 → (k.val : Int) = value → Memory.wf s.mirror = true →
    ∃ t v, v = (if dp then Config.glyph k ||| 0x80#8 else Config.glyph k) ∧
      exec (.wr chip (BitVec.ofNat 8 (digit.toNat + 1)) (if rev then flipBits v else v))
        (s.setMirror chip.toNat digit.toNat v) = .next t ∧
      hostExec (.setDigit chip digit value dp rev) s = .next { t with ret := some ⟨.none, none⟩ } ∧
      t.mirrorAt chip.toNat digit.toNat = v) ∧
  (∀ (s : State) (chip digit : Int) (ch : Byte) (dp rev : Bool) (k : Fin 128), 0 ≤ chip → chip < s.n → 0 ≤ digit →
    digit ≤ 7 → k.val = (if ch.toNat > 127 then 32 else ch.toNat) → Memory.wf s.mirror = true →
    ∃ t v, v = (if dp then Config.glyph k ||| 0x80#8 else Config.glyph k) ∧
      exec (.wr chip (BitVec.ofNat 8 (digit.toNat + 1)) (if rev then flipBits v else v))
        (s.setMirror chip.toNat digit.toNat v) = .next t ∧
      hostExec (.setChar chip digit ch dp rev) s = .next { t with ret := some ⟨.none, none⟩ } ∧
      t.mirrorAt chip.toNat digit.toNat = v)

/-- The checks of `setDigit` and `setChar` in order: the chip address, then the digit, then the value; the first that fails
is the kind reported, and only REJ and the caller's result are written (R130, R165; the order is the spec's decision
D15, the digit's bound D18, REJ D13). -/
def Obligations.DigitOperationsRejectInOrder : Prop :=
  (∀ (s : State) (chip digit value : Int) (ch : Byte) (dp rev : Bool), (chip < 0 ∨ (s.n : Int) ≤ chip) →
    hostExec (.setDigit chip digit value dp rev) s =
      .next { s with rej := .invalidAddress, ret := some ⟨.invalidAddress, none⟩ } ∧
    hostExec (.setChar chip digit ch dp rev) s =
      .next { s with rej := .invalidAddress, ret := some ⟨.invalidAddress, none⟩ }) ∧
  (∀ (s : State) (chip digit value : Int) (ch : Byte) (dp rev : Bool), 0 ≤ chip → chip < s.n →
    (digit < 0 ∨ 7 < digit) →
    hostExec (.setDigit chip digit value dp rev) s =
      .next { s with rej := .invalidCoordinate, ret := some ⟨.invalidCoordinate, none⟩ } ∧
    hostExec (.setChar chip digit ch dp rev) s =
      .next { s with rej := .invalidCoordinate, ret := some ⟨.invalidCoordinate, none⟩ }) ∧
  (∀ (s : State) (chip digit value : Int) (dp rev : Bool), 0 ≤ chip → chip < s.n → 0 ≤ digit → digit ≤ 7 →
    (value < 0 ∨ 15 < value) →
    hostExec (.setDigit chip digit value dp rev) s =
      .next { s with rej := .invalidValue, ret := some ⟨.invalidValue, none⟩ })

/-- FLIP by output bit and source bit, the same as a formula, the rule's example, and that FLIP is its own inverse
(R150; the last is R151's). -/
def Obligations.FlipPermutesBits : Prop :=
  ∀ v : Byte,
    (flipBits v).getLsbD 0 = v.getLsbD 0 ∧ (flipBits v).getLsbD 1 = v.getLsbD 4 ∧
    (flipBits v).getLsbD 2 = v.getLsbD 5 ∧ (flipBits v).getLsbD 3 = v.getLsbD 6 ∧
    (flipBits v).getLsbD 4 = v.getLsbD 1 ∧ (flipBits v).getLsbD 5 = v.getLsbD 2 ∧
    (flipBits v).getLsbD 6 = v.getLsbD 3 ∧ (flipBits v).getLsbD 7 = v.getLsbD 7 ∧
    flipBits v = ((v &&& 0x81#8) ||| ((v &&& 0x70#8) >>> 3) ||| ((v &&& 0x0E#8) <<< 3)) ∧
    flipBits 0xB2#8 = 0x96#8 ∧ flipBits (flipBits v) = v
end

