-- ==== Sys2Proof/Laws/Memory.lean ====
section
/-! SUPPORT. The laws of memory: a read after a write, and the canonical form. -/

namespace Sys2Proof.Machine

theorem Memory.read_cell (a : Nat) (v : Byte) : Memory.read (Memory.cell a v) a = v := by
  unfold Memory.cell
  split <;> simp_all [Memory.read]

theorem Memory.read_cell_append_ne (a b : Nat) (v : Byte) (m : Memory) (h : a ≠ b) :
    Memory.read (Memory.cell a v ++ m) b = Memory.read m b := by
  unfold Memory.cell
  split <;> simp [Memory.read, h]

/-- Below its first address a memory in canonical form reads as unlisted. -/
theorem Memory.read_below (m : Memory) (lo a : Nat) (h : Memory.wfAbove m lo = true) (ha : a < lo) :
    Memory.read m a = Memory.unlisted := by
  induction m generalizing lo with
  | nil => rfl
  | cons c rest ih =>
    obtain ⟨b, v⟩ := c
    simp only [Memory.wfAbove, Bool.and_eq_true, decide_eq_true_eq] at h
    simp only [Memory.read, show b ≠ a by omega, if_false]
    exact ih (b + 1) h.2 (by omega)

theorem Memory.read_cell_append_self (a lo : Nat) (v : Byte) (m : Memory)
    (h : Memory.wfAbove m lo = true) (ha : a < lo) :
    Memory.read (Memory.cell a v ++ m) a = v := by
  unfold Memory.cell
  split
  · simp_all [Memory.read_below m lo a h ha]
  · simp [Memory.read]

theorem Memory.wfAbove_mono (m : Memory) (lo lo' : Nat) (h : Memory.wfAbove m lo = true) (hl : lo' ≤ lo) :
    Memory.wfAbove m lo' = true := by
  cases m with
  | nil => rfl
  | cons c rest =>
    obtain ⟨b, v⟩ := c
    simp only [Memory.wfAbove, Bool.and_eq_true, decide_eq_true_eq] at h ⊢
    exact ⟨⟨by omega, h.1.2⟩, h.2⟩

theorem Memory.wfAbove_cell_append (a lo : Nat) (v : Byte) (m : Memory) (h : Memory.wfAbove m (a + 1) = true)
    (hl : lo ≤ a) : Memory.wfAbove (Memory.cell a v ++ m) lo = true := by
  unfold Memory.cell
  split
  · exact Memory.wfAbove_mono m (a + 1) lo h (by omega)
  · rename_i hv
    simp [Memory.wfAbove, hl, hv, h]

theorem Memory.wfAbove_write (m : Memory) (lo a : Nat) (v : Byte) (h : Memory.wfAbove m lo = true) (hl : lo ≤ a) :
    Memory.wfAbove (Memory.write m a v) lo = true := by
  induction m generalizing lo with
  | nil =>
    have := Memory.wfAbove_cell_append a lo v [] rfl hl
    simpa [Memory.write] using this
  | cons c rest ih =>
    obtain ⟨b, u⟩ := c
    simp only [Memory.wfAbove, Bool.and_eq_true, decide_eq_true_eq] at h
    obtain ⟨⟨hb, hu⟩, hr⟩ := h
    unfold Memory.write
    split
    · rename_i hab
      refine Memory.wfAbove_cell_append a lo v _ ?_ hl
      simp [Memory.wfAbove, show a + 1 ≤ b by omega, hu, hr]
    · split
      · rename_i hab
        subst hab
        exact Memory.wfAbove_cell_append a lo v _ hr hl
      · simp only [Memory.wfAbove, Bool.and_eq_true, decide_eq_true_eq]
        exact ⟨⟨hb, hu⟩, ih (b + 1) hr (by omega)⟩

/-- Every write keeps the canonical form. -/
theorem Memory.wf_write (m : Memory) (a : Nat) (v : Byte) (h : Memory.wf m = true) :
    Memory.wf (Memory.write m a v) = true :=
  Memory.wfAbove_write m 0 a v h (Nat.zero_le a)

theorem Memory.read_write_above (m : Memory) (lo a : Nat) (v : Byte) (h : Memory.wfAbove m lo = true) :
    Memory.read (Memory.write m a v) a = v := by
  induction m generalizing lo with
  | nil => exact Memory.read_cell a v
  | cons c rest ih =>
    obtain ⟨b, u⟩ := c
    have h0 := h
    simp only [Memory.wfAbove, Bool.and_eq_true, decide_eq_true_eq] at h
    unfold Memory.write
    split
    · rename_i hab
      refine Memory.read_cell_append_self a b v _ ?_ hab
      simp [Memory.wfAbove, h.1.2, h.2]
    · split
      · rename_i hab
        subst hab
        exact Memory.read_cell_append_self a (a + 1) v _ h.2 (by omega)
      · rename_i h1 h2
        simp only [Memory.read, show b ≠ a by omega, if_false]
        exact ih (b + 1) h.2

/-- A read after a write to the same address gives the byte written. -/
theorem Memory.read_write_same (m : Memory) (a : Nat) (v : Byte) (h : Memory.wf m = true) :
    Memory.read (Memory.write m a v) a = v := Memory.read_write_above m 0 a v h

/-- A write leaves every other address alone. -/
theorem Memory.read_write_other (m : Memory) (a b : Nat) (v : Byte) (h : a ≠ b) :
    Memory.read (Memory.write m a v) b = Memory.read m b := by
  induction m with
  | nil => simpa [Memory.write, Memory.read] using Memory.read_cell_append_ne a b v [] h
  | cons c rest ih =>
    obtain ⟨k, u⟩ := c
    unfold Memory.write
    split
    · exact Memory.read_cell_append_ne a b v _ h
    · split
      · rename_i hk
        subst hk
        rw [Memory.read_cell_append_ne a b v _ h]
        simp [Memory.read, h]
      · by_cases hk : k = b <;> simp [Memory.read, hk, ih]

/-- A write lists no address but the one written and those listed before. -/
theorem Memory.mem_write (m : Memory) (a : Nat) (v : Byte) (cell : Host.Cell) (h : cell ∈ Memory.write m a v) :
    cell.1 = a ∨ cell ∈ m := by
  have hc : ∀ c, c ∈ Memory.cell a v → c.1 = a := by
    intro c hc
    unfold Memory.cell at hc
    split at hc <;> simp_all
  induction m with
  | nil => exact .inl (hc _ h)
  | cons c rest ih =>
    obtain ⟨b, u⟩ := c
    unfold Memory.write at h
    split at h
    · rcases List.mem_append.1 h with h | h
      · exact .inl (hc _ h)
      · exact .inr h
    · split at h
      · rcases List.mem_append.1 h with h | h
        · exact .inl (hc _ h)
        · exact .inr (List.mem_cons_of_mem _ h)
      · rcases List.mem_cons.1 h with h | h
        · exact .inr (by simp [h])
        · exact (ih h).imp id (List.mem_cons_of_mem _)

/-- Two places of the mirror have different keys (rows are 0..7). -/
theorem mirrorAddr_inj {c r c' r' : Nat} (hr : r < 8) (hr' : r' < 8) (h : mirrorAddr c r = mirrorAddr c' r') :
    c = c' ∧ r = r' := by
  unfold mirrorAddr at h
  omega

/-- `MIRROR[c][r]` after `MIRROR[c][r] <- v`. -/
theorem State.mirrorAt_setMirror (s : State) (c r c' r' : Nat) (v : Byte) (hw : Memory.wf s.mirror = true)
    (hr : r < 8) (hr' : r' < 8) :
    (s.setMirror c r v).mirrorAt c' r' = if c' = c ∧ r' = r then v else s.mirrorAt c' r' := by
  unfold State.mirrorAt State.setMirror
  split
  · rename_i h
    rw [h.1, h.2]
    exact Memory.read_write_same _ _ _ hw
  · rename_i h
    refine Memory.read_write_other _ _ _ _ fun he => h ?_
    have := mirrorAddr_inj hr hr' he
    exact ⟨this.1.symm, this.2.symm⟩

end Sys2Proof.Machine
end

