-- ==== Sys2Proof/Laws/State.lean ====
section
/-! SUPPORT. One lemma per field per update of the state. -/

namespace Sys2Proof.Machine

@[simp] theorem State.setMirror_n (s : State) (c r : Nat) (v : Byte) : (s.setMirror c r v).n = s.n := rfl
@[simp] theorem State.setMirror_ca (s : State) (c r : Nat) (v : Byte) : (s.setMirror c r v).ca = s.ca := rfl
@[simp] theorem State.setMirror_acc (s : State) (c r : Nat) (v : Byte) : (s.setMirror c r v).acc = s.acc := rfl
@[simp] theorem State.setMirror_sel (s : State) (c r : Nat) (v : Byte) : (s.setMirror c r v).sel = s.sel := rfl
@[simp] theorem State.setMirror_rej (s : State) (c r : Nat) (v : Byte) : (s.setMirror c r v).rej = s.rej := rfl
@[simp] theorem State.setMirror_bus (s : State) (c r : Nat) (v : Byte) : (s.setMirror c r v).bus = s.bus := rfl
@[simp] theorem State.setMirror_busy (s : State) (c r : Nat) (v : Byte) : (s.setMirror c r v).busy = s.busy := rfl
@[simp] theorem State.setMirror_mirror (s : State) (c r : Nat) (v : Byte) : (s.setMirror c r v).mirror = Memory.write s.mirror (mirrorAddr c r) v := rfl
@[simp] theorem State.setMirror_pending (s : State) (c r : Nat) (v : Byte) : (s.setMirror c r v).pending = s.pending := rfl
@[simp] theorem State.setMirror_ret (s : State) (c r : Nat) (v : Byte) : (s.setMirror c r v).ret = s.ret := rfl

@[simp] theorem State.setAcc_n (s : State) (cS : Fin 8) (v : Byte) : (s.setAcc cS v).n = s.n := rfl
@[simp] theorem State.setAcc_ca (s : State) (cS : Fin 8) (v : Byte) : (s.setAcc cS v).ca = s.ca := rfl
@[simp] theorem State.setAcc_acc (s : State) (cS : Fin 8) (v : Byte) : (s.setAcc cS v).acc = s.acc.set cS.val v := rfl
@[simp] theorem State.setAcc_sel (s : State) (cS : Fin 8) (v : Byte) : (s.setAcc cS v).sel = s.sel := rfl
@[simp] theorem State.setAcc_rej (s : State) (cS : Fin 8) (v : Byte) : (s.setAcc cS v).rej = s.rej := rfl
@[simp] theorem State.setAcc_bus (s : State) (cS : Fin 8) (v : Byte) : (s.setAcc cS v).bus = s.bus := rfl
@[simp] theorem State.setAcc_busy (s : State) (cS : Fin 8) (v : Byte) : (s.setAcc cS v).busy = s.busy := rfl
@[simp] theorem State.setAcc_mirror (s : State) (cS : Fin 8) (v : Byte) : (s.setAcc cS v).mirror = s.mirror := rfl
@[simp] theorem State.setAcc_pending (s : State) (cS : Fin 8) (v : Byte) : (s.setAcc cS v).pending = s.pending := rfl
@[simp] theorem State.setAcc_ret (s : State) (cS : Fin 8) (v : Byte) : (s.setAcc cS v).ret = s.ret := rfl

@[simp] theorem State.setWiring_n (s : State) (m : Bool) : (s.setWiring m).n = s.n := rfl
@[simp] theorem State.setWiring_ca (s : State) (m : Bool) : (s.setWiring m).ca = m := rfl
@[simp] theorem State.setWiring_acc (s : State) (m : Bool) : (s.setWiring m).acc = s.acc := rfl
@[simp] theorem State.setWiring_sel (s : State) (m : Bool) : (s.setWiring m).sel = s.sel := rfl
@[simp] theorem State.setWiring_rej (s : State) (m : Bool) : (s.setWiring m).rej = s.rej := rfl
@[simp] theorem State.setWiring_bus (s : State) (m : Bool) : (s.setWiring m).bus = s.bus := rfl
@[simp] theorem State.setWiring_busy (s : State) (m : Bool) : (s.setWiring m).busy = s.busy := rfl
@[simp] theorem State.setWiring_mirror (s : State) (m : Bool) : (s.setWiring m).mirror = s.mirror := rfl
@[simp] theorem State.setWiring_pending (s : State) (m : Bool) : (s.setWiring m).pending = s.pending := rfl
@[simp] theorem State.setWiring_ret (s : State) (m : Bool) : (s.setWiring m).ret = s.ret := rfl

@[simp] theorem State.setRej_n (s : State) (kind : RejKind) : (s.setRej kind).n = s.n := rfl
@[simp] theorem State.setRej_ca (s : State) (kind : RejKind) : (s.setRej kind).ca = s.ca := rfl
@[simp] theorem State.setRej_acc (s : State) (kind : RejKind) : (s.setRej kind).acc = s.acc := rfl
@[simp] theorem State.setRej_sel (s : State) (kind : RejKind) : (s.setRej kind).sel = s.sel := rfl
@[simp] theorem State.setRej_rej (s : State) (kind : RejKind) : (s.setRej kind).rej = kind := rfl
@[simp] theorem State.setRej_bus (s : State) (kind : RejKind) : (s.setRej kind).bus = s.bus := rfl
@[simp] theorem State.setRej_busy (s : State) (kind : RejKind) : (s.setRej kind).busy = s.busy := rfl
@[simp] theorem State.setRej_mirror (s : State) (kind : RejKind) : (s.setRej kind).mirror = s.mirror := rfl
@[simp] theorem State.setRej_pending (s : State) (kind : RejKind) : (s.setRej kind).pending = s.pending := rfl
@[simp] theorem State.setRej_ret (s : State) (kind : RejKind) : (s.setRej kind).ret = s.ret := rfl

@[simp] theorem State.setRet_n (s : State) (r : Ret) : (s.setRet r).n = s.n := rfl
@[simp] theorem State.setRet_ca (s : State) (r : Ret) : (s.setRet r).ca = s.ca := rfl
@[simp] theorem State.setRet_acc (s : State) (r : Ret) : (s.setRet r).acc = s.acc := rfl
@[simp] theorem State.setRet_sel (s : State) (r : Ret) : (s.setRet r).sel = s.sel := rfl
@[simp] theorem State.setRet_rej (s : State) (r : Ret) : (s.setRet r).rej = s.rej := rfl
@[simp] theorem State.setRet_bus (s : State) (r : Ret) : (s.setRet r).bus = s.bus := rfl
@[simp] theorem State.setRet_busy (s : State) (r : Ret) : (s.setRet r).busy = s.busy := rfl
@[simp] theorem State.setRet_mirror (s : State) (r : Ret) : (s.setRet r).mirror = s.mirror := rfl
@[simp] theorem State.setRet_pending (s : State) (r : Ret) : (s.setRet r).pending = s.pending := rfl
@[simp] theorem State.setRet_ret (s : State) (r : Ret) : (s.setRet r).ret = some r := rfl

@[simp] theorem State.assertSelect_n (s : State) : s.assertSelect.n = s.n := rfl
@[simp] theorem State.assertSelect_ca (s : State) : s.assertSelect.ca = s.ca := rfl
@[simp] theorem State.assertSelect_acc (s : State) : s.assertSelect.acc = s.acc := rfl
@[simp] theorem State.assertSelect_sel (s : State) : s.assertSelect.sel = false := rfl
@[simp] theorem State.assertSelect_rej (s : State) : s.assertSelect.rej = s.rej := rfl
@[simp] theorem State.assertSelect_bus (s : State) : s.assertSelect.bus = s.bus ++ [.selLow] := rfl
@[simp] theorem State.assertSelect_busy (s : State) : s.assertSelect.busy = s.busy := rfl
@[simp] theorem State.assertSelect_mirror (s : State) : s.assertSelect.mirror = s.mirror := rfl
@[simp] theorem State.assertSelect_pending (s : State) : s.assertSelect.pending = s.pending := rfl
@[simp] theorem State.assertSelect_ret (s : State) : s.assertSelect.ret = s.ret := rfl

@[simp] theorem State.writeByte_n (s : State) (v : Byte) : (s.writeByte v).n = s.n := rfl
@[simp] theorem State.writeByte_ca (s : State) (v : Byte) : (s.writeByte v).ca = s.ca := rfl
@[simp] theorem State.writeByte_acc (s : State) (v : Byte) : (s.writeByte v).acc = s.acc := rfl
@[simp] theorem State.writeByte_sel (s : State) (v : Byte) : (s.writeByte v).sel = s.sel := rfl
@[simp] theorem State.writeByte_rej (s : State) (v : Byte) : (s.writeByte v).rej = s.rej := rfl
@[simp] theorem State.writeByte_bus (s : State) (v : Byte) : (s.writeByte v).bus = s.bus ++ [.byte v] := rfl
@[simp] theorem State.writeByte_busy (s : State) (v : Byte) : (s.writeByte v).busy = s.busy := rfl
@[simp] theorem State.writeByte_mirror (s : State) (v : Byte) : (s.writeByte v).mirror = s.mirror := rfl
@[simp] theorem State.writeByte_pending (s : State) (v : Byte) : (s.writeByte v).pending = s.pending := rfl
@[simp] theorem State.writeByte_ret (s : State) (v : Byte) : (s.writeByte v).ret = s.ret := rfl

@[simp] theorem State.releaseSelect_n (s : State) : s.releaseSelect.n = s.n := rfl
@[simp] theorem State.releaseSelect_ca (s : State) : s.releaseSelect.ca = s.ca := rfl
@[simp] theorem State.releaseSelect_acc (s : State) : s.releaseSelect.acc = s.acc := rfl
@[simp] theorem State.releaseSelect_sel (s : State) : s.releaseSelect.sel = true := rfl
@[simp] theorem State.releaseSelect_rej (s : State) : s.releaseSelect.rej = s.rej := rfl
@[simp] theorem State.releaseSelect_bus (s : State) : s.releaseSelect.bus = s.bus ++ [.selHigh] := rfl
@[simp] theorem State.releaseSelect_busy (s : State) : s.releaseSelect.busy = s.busy := rfl
@[simp] theorem State.releaseSelect_mirror (s : State) : s.releaseSelect.mirror = s.mirror := rfl
@[simp] theorem State.releaseSelect_pending (s : State) : s.releaseSelect.pending = s.pending := rfl
@[simp] theorem State.releaseSelect_ret (s : State) : s.releaseSelect.ret = s.ret := rfl

@[simp] theorem State.accept_n (s : State) (rest : List Presented) : (s.accept rest).n = s.n := rfl
@[simp] theorem State.accept_ca (s : State) (rest : List Presented) : (s.accept rest).ca = s.ca := rfl
@[simp] theorem State.accept_acc (s : State) (rest : List Presented) : (s.accept rest).acc = s.acc := rfl
@[simp] theorem State.accept_sel (s : State) (rest : List Presented) : (s.accept rest).sel = s.sel := rfl
@[simp] theorem State.accept_rej (s : State) (rest : List Presented) : (s.accept rest).rej = s.rej := rfl
@[simp] theorem State.accept_bus (s : State) (rest : List Presented) : (s.accept rest).bus = s.bus := rfl
@[simp] theorem State.accept_busy (s : State) (rest : List Presented) : (s.accept rest).busy = true := rfl
@[simp] theorem State.accept_mirror (s : State) (rest : List Presented) : (s.accept rest).mirror = s.mirror := rfl
@[simp] theorem State.accept_pending (s : State) (rest : List Presented) : (s.accept rest).pending = rest := rfl
@[simp] theorem State.accept_ret (s : State) (rest : List Presented) : (s.accept rest).ret = s.ret := rfl

@[simp] theorem State.ready_n (s : State) : s.ready.n = s.n := rfl
@[simp] theorem State.ready_ca (s : State) : s.ready.ca = s.ca := rfl
@[simp] theorem State.ready_acc (s : State) : s.ready.acc = s.acc := rfl
@[simp] theorem State.ready_sel (s : State) : s.ready.sel = s.sel := rfl
@[simp] theorem State.ready_rej (s : State) : s.ready.rej = s.rej := rfl
@[simp] theorem State.ready_bus (s : State) : s.ready.bus = s.bus := rfl
@[simp] theorem State.ready_busy (s : State) : s.ready.busy = false := rfl
@[simp] theorem State.ready_mirror (s : State) : s.ready.mirror = s.mirror := rfl
@[simp] theorem State.ready_pending (s : State) : s.ready.pending = s.pending := rfl
@[simp] theorem State.ready_ret (s : State) : s.ready.ret = s.ret := rfl

@[simp] theorem State.present_n (s : State) (e : Encoded) : (s.present e).n = s.n := rfl
@[simp] theorem State.present_ca (s : State) (e : Encoded) : (s.present e).ca = s.ca := rfl
@[simp] theorem State.present_acc (s : State) (e : Encoded) : (s.present e).acc = s.acc := rfl
@[simp] theorem State.present_sel (s : State) (e : Encoded) : (s.present e).sel = s.sel := rfl
@[simp] theorem State.present_rej (s : State) (e : Encoded) : (s.present e).rej = s.rej := rfl
@[simp] theorem State.present_bus (s : State) (e : Encoded) : (s.present e).bus = s.bus := rfl
@[simp] theorem State.present_busy (s : State) (e : Encoded) : (s.present e).busy = false := rfl
@[simp] theorem State.present_mirror (s : State) (e : Encoded) : (s.present e).mirror = s.mirror := rfl
@[simp] theorem State.present_pending (s : State) (e : Encoded) : (s.present e).pending = .command e :: s.pending := rfl
@[simp] theorem State.present_ret (s : State) (e : Encoded) : (s.present e).ret = s.ret := rfl

end Sys2Proof.Machine
end

