-- ==== Sys2Proof/Laws/Ops.lean ====
section
/-! SUPPORT. What each shared operation can do, said once: XMIT, one segment, the remap, a checked write. -/

namespace Sys2Proof.Machine

/-- Sending bytes changes the bus only. -/
theorem writeBytes_eq (bytes : List Byte) (s : State) :
    bytes.foldl State.writeByte s = { s with bus := s.bus ++ bytes.map .byte } := by
  induction bytes generalizing s with
  | nil => simp
  | cons v rest ih => simp [ih, State.writeByte]

/-- `XMIT` changes `SEL` and `BUS` only, and appends one bracketed frame: the reversed buffer (R110). -/
theorem xmit_eq (c : Nat) (op d : Byte) (s : State) :
    xmit c op d s = { s with sel := true, bus := s.bus ++ bracketed (frameBuffer s.n c op d).reverse } := by
  rw [xmit, writeBytes_eq]
  simp [State.releaseSelect, State.assertSelect, bracketed]

/-- One segment of the remap changes `ACC[cS]`, `SEL` and `BUS` only (R96, R97). -/
theorem remapSegment_eq (c w : Nat) (d : Byte) (s : State) (cS : Fin 8) :
    remapSegment c w d s cS =
      { s with
        acc := s.acc.set cS.val (setbit s.acc[cS] w (bit d (readIndex cS))), sel := true,
        bus := s.bus ++ bracketed
          (frameBuffer s.n c (targetOpcode cS) (setbit s.acc[cS] w (bit d (readIndex cS)))).reverse } := by
  simp [remapSegment, xmit_eq, State.setAcc]

/-- A checked write is the drop, or its action with `REJ <- 0` (R90, R92). -/
theorem checkedWrite_cases (addr : Int) (act : Nat → State → State) (s : State) :
    (chipOk s.n addr = true ∧ checkedWrite addr act s = act addr.toNat (s.setRej .none)) ∨
      (chipOk s.n addr = false ∧ checkedWrite addr act s = s.setRej .invalidAddress) := by
  unfold checkedWrite
  split <;> simp_all

/-- A public operation with checks answers a next state in every case: carried out, or dropped with the first failing
kind (R130, R153). -/
theorem validated_cases (checks : List (Bool × RejKind)) (act : State → State) (s : State) :
    (firstFailure checks = .none ∧ validated checks act s = .next ((act s).setRet ⟨.none, none⟩)) ∨
      (firstFailure checks ≠ .none ∧
        validated checks act s =
          .next ((s.setRej (firstFailure checks)).setRet ⟨firstFailure checks, none⟩)) := by
  unfold validated
  split <;> simp_all

/-- A step that goes on: the block waited, or what was presented was carried out and the block is ready (R19). -/
theorem step_next {s t : State} (h : step s = .next t) :
    (s.pending = [] ∧ t = s) ∨
      (∃ p rest u, s.pending = p :: rest ∧ s.busy = false ∧ runPresented p (s.accept rest) = .next u ∧
        t = u.ready) := by
  unfold step takeNext at h
  split at h
  · rename_i hp
    cases h
    exact .inl ⟨hp, rfl⟩
  · rename_i p rest hp
    split at h
    · cases h
    · rename_i hb
      refine .inr ⟨p, rest, ?_⟩
      cases hr : runPresented p (s.accept rest) with
      | next u =>
        rw [hr] at h
        simp only [completed] at h
        cases h
        exact ⟨u, hp, by simpa using hb, rfl, rfl⟩
      | fault r => rw [hr] at h; cases h
      | refused r => rw [hr] at h; cases h

/-- The remap changes `ACC`, `SEL` and `BUS` only. -/
theorem remap_other (c w : Nat) (d : Byte) (s : State) :
    (remap c w d s).n = s.n ∧ (remap c w d s).ca = s.ca ∧ (remap c w d s).rej = s.rej ∧
      (remap c w d s).busy = s.busy ∧ (remap c w d s).mirror = s.mirror ∧
      (remap c w d s).pending = s.pending ∧ (remap c w d s).ret = s.ret := by
  unfold remap
  induction segments generalizing s with
  | nil => simp
  | cons cS rest ih =>
    obtain ⟨h1, h2, h3, h4, h5, h6, h7⟩ := ih (remapSegment c w d s cS)
    simp only [List.foldl_cons]
    rw [h1, h2, h3, h4, h5, h6, h7, remapSegment_eq]
    simp

/-- A bit of `setbit` (00_scope.md section 5). -/
theorem bit_setbit (v : Byte) (i j : Nat) (b : Bool) (hi : i < 8) (hj : j < 8) :
    bit (setbit v i b) j = if j = i then b else bit v j := by
  have h1 : (oneBit i).getLsbD j = decide (j = i) := by
    have : ∀ i' < 8, ∀ j' < 8, (oneBit i').getLsbD j' = decide (j' = i') := by decide
    exact this i hi j hj
  unfold bit setbit
  by_cases h : j = i
  · subst h
    cases b <;> simp only [BitVec.getLsbD_or, BitVec.getLsbD_and, BitVec.getLsbD_not, if_true, h1, hi] <;> simp
  · cases b <;> simp only [BitVec.getLsbD_or, BitVec.getLsbD_and, BitVec.getLsbD_not, if_true, if_false, h1, h, hj]
      <;> simp

/-- Frames begin with a select edge, so appending some leaves the earlier frames as they were. -/
theorem framesFrom_append_bracketed (cur : List Byte) (bus : List BusEvent) (frame : List Byte) (rest : List BusEvent) :
    framesFrom cur (bus ++ (bracketed frame ++ rest)) = framesFrom cur bus ++ frame :: framesFrom [] rest := by
  have hb : ∀ (pre fr : List Byte), framesFrom pre (fr.map BusEvent.byte ++ (BusEvent.selHigh :: rest))
      = (pre ++ fr) :: framesFrom [] rest := by
    intro pre fr
    induction fr generalizing pre with
    | nil => simp [framesFrom]
    | cons v fr ih => simp [framesFrom, ih]
  induction bus generalizing cur with
  | nil =>
    have := hb [] frame
    simpa [bracketed, framesFrom] using this
  | cons e bus ih =>
    cases e with
    | selLow => simpa [framesFrom] using ih []
    | byte v => simpa [framesFrom] using ih (cur ++ [v])
    | selHigh => simpa [framesFrom] using ih []

/-- One more frame on the bus is one more frame committed. -/
theorem framesOf_append_bracketed (bus : List BusEvent) (frame : List Byte) :
    framesOf (bus ++ bracketed frame) = framesOf bus ++ [frame] := by
  have := framesFrom_append_bracketed [] bus frame []
  simpa [framesOf, framesFrom] using this

end Sys2Proof.Machine
end

