-- ==== Sys2Proof/Laws/PerInstr.lean ====
section
/-! SUPPORT. A property of every instruction as syntax, one lemma per constructor: its encoding carries the register
opcode it writes (30_encoding.md R52, R55, R57). -/

namespace Sys2Proof.Laws

open Sys2Proof.Machine

/-- The opcode byte of what the machine is given: bits 15:8 of a command word that is a `WR`, of a pair, or the
request's own. -/
def opcodeOf : Encoded → Option Byte
  | .word w => if kindField w = 0#4 then some (opcodeField w) else none
  | .pair _ w => some (pairOpcode w)
  | .request _ op _ => some op

/-- The register an instruction names. -/
def registerNamed : Instr → Option Byte
  | .mode _ => none
  | .xmit _ op _ => some op
  | i => (asWrite i).map fun p => p.2.1

theorem opcodeField_encodeWr (addr : Int) (op d : Byte) : opcodeField (encodeWr addr op d) = op := by
  apply BitVec.eq_of_getLsbD_eq
  intro i hi
  rw [opcodeField, BitVec.getLsbD_extractLsb']
  change (decide (i < 8) && (((0x00#8 ++ addrBits addr) ++ op) ++ d).getLsbD (8 + i)) = _
  rw [BitVec.getLsbD_append, if_neg (by omega), BitVec.getLsbD_append, if_pos (by omega)]
  simp [hi, show 8 + i - 8 = i by omega]

theorem kindField_encodeWr (addr : Int) (op d : Byte) : kindField (encodeWr addr op d) = 0#4 := by
  apply BitVec.eq_of_getLsbD_eq
  intro i hi
  rw [kindField, BitVec.getLsbD_extractLsb']
  change (decide (i < 4) && (((0x00#8 ++ addrBits addr) ++ op) ++ d).getLsbD (28 + i)) = _
  rw [BitVec.getLsbD_append, if_neg (by omega), BitVec.getLsbD_append, if_neg (by omega), BitVec.getLsbD_append,
    if_neg (by omega)]
  simp

theorem pairOpcode_encode (op d : Byte) : pairOpcode (op ++ d) = op := by
  apply BitVec.eq_of_getLsbD_eq
  intro i hi
  rw [pairOpcode, BitVec.getLsbD_extractLsb']
  change (decide (i < 8) && (op ++ d).getLsbD (8 + i)) = _
  rw [BitVec.getLsbD_append, if_neg (by omega)]
  simp [hi, show 8 + i - 8 = i by omega]

/-- The encoding of `i` carries the register `i` names. -/
def EncodedRegister.Statement (i : Instr) : Prop := opcodeOf (encode i) = registerNamed i

theorem EncodedRegister.wr (addr : Int) (op data : Byte) : EncodedRegister.Statement (.wr addr op data) := by
  simp [EncodedRegister.Statement, encode, opcodeOf, registerNamed, asWrite, kindField_encodeWr, opcodeField_encodeWr]

theorem EncodedRegister.mode (m : Bool) : EncodedRegister.Statement (.mode m) := by
  cases m <;> rfl

theorem EncodedRegister.xmit (c : Int) (op d : Byte) : EncodedRegister.Statement (.xmit c op d) := rfl

theorem EncodedRegister.noop (c : Int) (d : Byte) : EncodedRegister.Statement (.noop c d) := by
  simp [EncodedRegister.Statement, encode, encodePair, opcodeOf, registerNamed, asWrite, pairOpcode_encode]

theorem EncodedRegister.digit0 (c : Int) (d : Byte) : EncodedRegister.Statement (.digit0 c d) := by
  simp [EncodedRegister.Statement, encode, encodePair, opcodeOf, registerNamed, asWrite, pairOpcode_encode]

theorem EncodedRegister.digit1 (c : Int) (d : Byte) : EncodedRegister.Statement (.digit1 c d) := by
  simp [EncodedRegister.Statement, encode, encodePair, opcodeOf, registerNamed, asWrite, pairOpcode_encode]

theorem EncodedRegister.digit2 (c : Int) (d : Byte) : EncodedRegister.Statement (.digit2 c d) := by
  simp [EncodedRegister.Statement, encode, encodePair, opcodeOf, registerNamed, asWrite, pairOpcode_encode]

theorem EncodedRegister.digit3 (c : Int) (d : Byte) : EncodedRegister.Statement (.digit3 c d) := by
  simp [EncodedRegister.Statement, encode, encodePair, opcodeOf, registerNamed, asWrite, pairOpcode_encode]

theorem EncodedRegister.digit4 (c : Int) (d : Byte) : EncodedRegister.Statement (.digit4 c d) := by
  simp [EncodedRegister.Statement, encode, encodePair, opcodeOf, registerNamed, asWrite, pairOpcode_encode]

theorem EncodedRegister.digit5 (c : Int) (d : Byte) : EncodedRegister.Statement (.digit5 c d) := by
  simp [EncodedRegister.Statement, encode, encodePair, opcodeOf, registerNamed, asWrite, pairOpcode_encode]

theorem EncodedRegister.digit6 (c : Int) (d : Byte) : EncodedRegister.Statement (.digit6 c d) := by
  simp [EncodedRegister.Statement, encode, encodePair, opcodeOf, registerNamed, asWrite, pairOpcode_encode]

theorem EncodedRegister.digit7 (c : Int) (d : Byte) : EncodedRegister.Statement (.digit7 c d) := by
  simp [EncodedRegister.Statement, encode, encodePair, opcodeOf, registerNamed, asWrite, pairOpcode_encode]

theorem EncodedRegister.decodeMode (c : Int) (d : Byte) : EncodedRegister.Statement (.decodeMode c d) := by
  simp [EncodedRegister.Statement, encode, encodePair, opcodeOf, registerNamed, asWrite, pairOpcode_encode]

theorem EncodedRegister.intensity (c : Int) (d : Byte) : EncodedRegister.Statement (.intensity c d) := by
  simp [EncodedRegister.Statement, encode, encodePair, opcodeOf, registerNamed, asWrite, pairOpcode_encode]

theorem EncodedRegister.scanLimit (c : Int) (d : Byte) : EncodedRegister.Statement (.scanLimit c d) := by
  simp [EncodedRegister.Statement, encode, encodePair, opcodeOf, registerNamed, asWrite, pairOpcode_encode]

theorem EncodedRegister.shutdown (c : Int) (d : Byte) : EncodedRegister.Statement (.shutdown c d) := by
  simp [EncodedRegister.Statement, encode, encodePair, opcodeOf, registerNamed, asWrite, pairOpcode_encode]

theorem EncodedRegister.displayTest (c : Int) (d : Byte) : EncodedRegister.Statement (.displayTest c d) := by
  simp [EncodedRegister.Statement, encode, encodePair, opcodeOf, registerNamed, asWrite, pairOpcode_encode]

theorem EncodedRegister.undefined (c : Int) (op d : Byte) : EncodedRegister.Statement (.undefined c op d) := by
  simp [EncodedRegister.Statement, encode, encodePair, opcodeOf, registerNamed, asWrite, pairOpcode_encode]

end Sys2Proof.Laws
end

