-- ==== Sys2Proof/Tests/Slice0.lean ====
section
/-! SUPPORT. Tests. Expected values come from the spec: the encodings of 30_encoding.md, the vectors of
95_test_vectors.md (V1 to V6, S1 to S9), the examples of the rules. -/

namespace Sys2Proof.Tests

open Sys2Proof.Machine

/-! ## WellFormed: an ill-formed term for each check -/

theorem test_wellFormed_wr_addr : wellFormed (.wr 128 0x01 0x00) = false := by decide
theorem test_wellFormed_wr_addr_low : wellFormed (.wr (-129) 0x01 0x00) = false := by decide
theorem test_wellFormed_noop_addr : wellFormed (.noop 200 0x00) = false := by decide
theorem test_wellFormed_digit_addr :
    [wellFormed (.digit0 128 0), wellFormed (.digit1 128 0), wellFormed (.digit2 128 0), wellFormed (.digit3 128 0),
      wellFormed (.digit4 128 0), wellFormed (.digit5 128 0), wellFormed (.digit6 128 0), wellFormed (.digit7 128 0)]
      = [false, false, false, false, false, false, false, false] := by decide
theorem test_wellFormed_config_addr :
    [wellFormed (.decodeMode 128 0), wellFormed (.intensity 128 0), wellFormed (.scanLimit 128 0),
      wellFormed (.shutdown 128 0), wellFormed (.displayTest 128 0), wellFormed (.undefined 128 13 0)]
      = [false, false, false, false, false, false] := by decide
theorem test_wellFormed_undefined_opcode :
    wellFormed (.undefined 0 0x0F 0x00) = false ∧ wellFormed (.undefined 0 0x08 0x00) = false := by decide

/-! ## Decoding: words written out bit by bit from the patterns -/

/-- R62's example `WR 2, INTENSITY, 8`. -/
theorem test_decode_wr :
    decode (.word 0b0000_0000_00000010_00001010_00001000#32) = .ok (.wr 2 0x0A 0x08) := by rfl
/-- V1: `WR -1, 1, 0xFF`. -/
theorem test_decode_wr_negative :
    decode (.word 0b0000_0000_11111111_00000001_11111111#32) = .ok (.wr (-1) 0x01 0xFF) := by rfl
/-- R53. -/
theorem test_decode_mode_ca : decode (.word 0b0001_0000_00000000_00000000_00000001#32) = .ok (.mode true) := by rfl
theorem test_decode_mode_cc : decode (.word 0b0001_0000_00000000_00000000_00000000#32) = .ok (.mode false) := by rfl
/-- V1: the four reserved words. -/
theorem test_decode_mode_reserved : decode (.word 0x10000002#32) = .error (.modeBits 1) := by rfl
theorem test_decode_rsv_reserved : decode (.word 0x01000000#32) = .error (.reservedBits 1) := by rfl
theorem test_decode_kind_reserved : decode (.word 0x20000000#32) = .error (.reservedKind 2) := by rfl
theorem test_decode_all_ones_reserved : decode (.word 0xFFFFFFFF#32) = .error (.reservedKind 15) := by rfl
/-- R104, R110: a stage B request has no word. -/
theorem test_decode_xmit : decode (.request 2 0x0A 0x5C) = .ok (.xmit 2 0x0A 0x5C) := by rfl
theorem test_decode_noop : decodeTableWord 16 0b00000000_01110111 = some (.noop 0 0x77) := by rfl
theorem test_decode_digit0 : decodeTableWord 16 0b00000001_10100101 = some (.digit0 0 0xA5) := by rfl
theorem test_decode_digit1 : decodeTableWord 16 0b00000010_10100101 = some (.digit1 0 0xA5) := by rfl
theorem test_decode_digit2 : decodeTableWord 16 0b00000011_10100101 = some (.digit2 0 0xA5) := by rfl
theorem test_decode_digit3 : decodeTableWord 16 0b00000100_10100101 = some (.digit3 0 0xA5) := by rfl
theorem test_decode_digit4 : decodeTableWord 16 0b00000101_10100101 = some (.digit4 0 0xA5) := by rfl
theorem test_decode_digit5 : decodeTableWord 16 0b00000110_10100101 = some (.digit5 0 0xA5) := by rfl
theorem test_decode_digit6 : decodeTableWord 16 0b00000111_10100101 = some (.digit6 0 0xA5) := by rfl
theorem test_decode_digit7 : decodeTableWord 16 0b00001000_10100101 = some (.digit7 0 0xA5) := by rfl
theorem test_decode_decodeMode : decodeTableWord 16 0b00001001_00000000 = some (.decodeMode 0 0x00) := by rfl
theorem test_decode_intensity : decodeTableWord 16 0b00001010_00001111 = some (.intensity 0 0x0F) := by rfl
theorem test_decode_scanLimit : decodeTableWord 16 0b00001011_00000111 = some (.scanLimit 0 0x07) := by rfl
theorem test_decode_shutdown : decodeTableWord 16 0b00001100_00000001 = some (.shutdown 0 0x01) := by rfl
theorem test_decode_displayTest : decodeTableWord 16 0b00001111_00000000 = some (.displayTest 0 0x00) := by rfl
theorem test_decode_undefined : decodeTableWord 16 0b00001101_11101110 = some (.undefined 0 13 0xEE) := by rfl
theorem test_decode_undefined_high : decodeTableWord 16 0b11111111_11111111 = some (.undefined 0 255 0xFF) := by rfl
/-- The pair of another chip: ADDR 0x03 beside `0C 01`. -/
theorem test_decode_pair_chip : decode (.pair 0x03 0b00001100_00000001#16) = .ok (.shutdown 3 0x01) := by rfl
/-- R62. -/
theorem test_assembly : assembly (.intensity 2 0x08) = "WR 2, INTENSITY, 8" ∧ assembly (.mode true) = "MODE CA" := by
  decide

/-! ## One step of the block -/

/-- A state after reset with `NCFG = n`, in the given wiring mode. -/
def at_ (n : Int) (ca : Bool) : State := { State.resetWith n Config.accInit with ca := ca }

/-- The frames on the bus after an instruction. -/
def framesAfter (i : Instr) (s : State) : Option (List (List Byte)) :=
  (nextState (exec i s)).map fun t => framesOf t.bus

/-- The accumulators after an instruction. -/
def accOf (i : Instr) (s : State) : Option (List Byte) := (nextState (exec i s)).map fun t => t.acc.toList

/-- R90's example: `WR 0, 3, 0xA5`, every event. -/
theorem test_wr_events : (nextState (exec (.wr 0 0x03 0xA5) (at_ 1 false))).map (·.bus)
    = some [.selLow, .byte 0x03, .byte 0xA5, .selHigh] := by decide
/-- P2 step 1. -/
theorem test_wr_addressing :
    framesAfter (.wr 2 0x0A 0x5C) (at_ 4 false) = some [[0x00, 0x00, 0x0A, 0x5C, 0x00, 0x00, 0x00, 0x00]] := by decide
/-- R92: `WR 4, 1, 0xFF` with `N = 4`. -/
theorem test_wr_dropped : (nextState (exec (.wr 4 0x01 0xFF) (at_ 4 true))).map (fun t => (t.bus, t.rej.code))
    = some ([], 1#2) := by decide
/-- R91's example. -/
theorem test_mode : (nextState (exec (.mode true) (at_ 1 false))).map (fun t => (t.ca, t.bus)) = some (true, []) := by
  decide
/-- R110's example. -/
theorem test_xmit :
    framesAfter (.xmit 2 0x0A 0x5C) (at_ 4 false) = some [[0x00, 0x00, 0x0A, 0x5C, 0x00, 0x00, 0x00, 0x00]] := by decide
/-- R119. -/
theorem test_xmit_outside : nextState (exec (.xmit 1 0x0A 0x5C) (at_ 1 false)) = none := by decide
/-- V2, `N = 2`, `CA = 1`: `WR 0, 0, 0x77`. -/
theorem test_noop : framesAfter (.noop 0 0x77) (at_ 2 true) = some [[0x00, 0x00, 0x00, 0x77]] := by decide
/-- R72. -/
theorem test_digit0 : accOf (.digit0 0 0xFF) (at_ 1 true) = some [0x40, 0x40, 0x40, 0x40, 0x40, 0x40, 0x40, 0x40] := by
  decide
/-- V3: `WR 0, 1, 0x81`. -/
theorem test_digit0_frames : framesAfter (.digit0 0 0x81) (at_ 1 true)
    = some [[1, 0], [2, 0], [3, 0], [4, 0], [5, 0], [6, 0], [7, 0x40], [8, 0x40]] := by decide
/-- R73. -/
theorem test_digit1 : accOf (.digit1 0 0xFF) (at_ 1 true) = some [0x20, 0x20, 0x20, 0x20, 0x20, 0x20, 0x20, 0x20] := by
  decide
/-- R74. -/
theorem test_digit2 : accOf (.digit2 0 0xFF) (at_ 1 true) = some [0x10, 0x10, 0x10, 0x10, 0x10, 0x10, 0x10, 0x10] := by
  decide
/-- R75: `WR 0, 4, 0x30`. -/
theorem test_digit3 : accOf (.digit3 0 0x30) (at_ 1 true) = some [0x00, 0x08, 0x08, 0x00, 0x00, 0x00, 0x00, 0x00] := by
  decide
/-- R75, common-cathode. -/
theorem test_digit3_cc : framesAfter (.digit3 0 0x30) (at_ 1 false) = some [[0x04, 0x30]] := by decide
/-- R76. -/
theorem test_digit4 : accOf (.digit4 0 0xFF) (at_ 1 true) = some [0x04, 0x04, 0x04, 0x04, 0x04, 0x04, 0x04, 0x04] := by
  decide
/-- R77. -/
theorem test_digit5 : accOf (.digit5 0 0xFF) (at_ 1 true) = some [0x02, 0x02, 0x02, 0x02, 0x02, 0x02, 0x02, 0x02] := by
  decide
/-- R78. -/
theorem test_digit6 : accOf (.digit6 0 0xFF) (at_ 1 true) = some [0x01, 0x01, 0x01, 0x01, 0x01, 0x01, 0x01, 0x01] := by
  decide
/-- R79. -/
theorem test_digit7 : accOf (.digit7 0 0xFF) (at_ 1 true) = some [0x80, 0x80, 0x80, 0x80, 0x80, 0x80, 0x80, 0x80] := by
  decide
/-- V3: from all `FF`, `WR 0, 8, 0x00` clears bit 7. -/
theorem test_digit7_clears :
    accOf (.digit7 0 0x00) { at_ 1 true with acc := #v[0xFF, 0xFF, 0xFF, 0xFF, 0xFF, 0xFF, 0xFF, 0xFF] }
      = some [0x7F, 0x7F, 0x7F, 0x7F, 0x7F, 0x7F, 0x7F, 0x7F] := by decide
/-- R80. -/
theorem test_decodeMode : framesAfter (.decodeMode 0 0x00) (at_ 1 false) = some [[0x09, 0x00]] := by decide
/-- R81. -/
theorem test_intensity :
    framesAfter (.intensity 2 0x5C) (at_ 4 false) = some [[0x00, 0x00, 0x0A, 0x5C, 0x00, 0x00, 0x00, 0x00]] := by decide
/-- R82. -/
theorem test_scanLimit : framesAfter (.scanLimit 0 0x07) (at_ 1 true) = some [[0x0B, 0x07]] := by decide
/-- R83. -/
theorem test_shutdown : framesAfter (.shutdown 1 0x01) (at_ 2 true) = some [[0x0C, 0x01, 0x00, 0x00]] := by decide
/-- R84. -/
theorem test_displayTest : framesAfter (.displayTest 0 0x00) (at_ 1 false) = some [[0x0F, 0x00]] := by decide
/-- R85. -/
theorem test_undefined : framesAfter (.undefined 1 0x0D 0xEE) (at_ 2 true) = some [[0x0D, 0xEE, 0x00, 0x00]] := by decide
/-- R103's second write: chip 1 receives chip 0's bit 6. -/
theorem test_shared_accumulators : framesAfter (.wr 1 0x02 0x80)
    { at_ 2 true with acc := #v[0x40, 0x40, 0x40, 0x40, 0x40, 0x40, 0x40, 0x40] }
    = some [[1, 0x40, 0, 0], [2, 0x40, 0, 0], [3, 0x40, 0, 0], [4, 0x40, 0, 0], [5, 0x40, 0, 0], [6, 0x40, 0, 0],
        [7, 0x40, 0, 0], [8, 0x60, 0, 0]] := by decide

/-! ## The step, reset and the host layer -/

/-- The first instruction after reset (`WR 0, 1, 0x80`, V1's word). -/
theorem test_step_wr : (nextState (step (State.reset.withFetchWord 32 0x00000180))).map (fun t => (t.busy, framesOf t.bus))
    = some (false, [[0, 0, 0, 0, 0, 0, 0, 0, 0, 0, 0, 0, 0, 0, 0x01, 0x80]]) := by decide
/-- R54: a reserved word changes nothing but `REJ`, code 3. -/
theorem test_step_reserved : (nextState (step (State.reset.withFetchWord 32 0x20000000))).map (fun t => (t.rej.code, t.bus))
    = some (3#2, []) := by decide
/-- U2. -/
theorem test_step_busy :
    nextState (step { State.reset with busy := true, pending := [.call .getChipCount] }) = none := by decide
/-- S1. -/
theorem test_clamp : [-5, 0, 1, 2, 7, 8, 9, 255].map clampCount = [8, 8, 1, 2, 7, 8, 8, 8] := by decide
theorem test_reset_inv : State.reset.Inv :=
  ⟨by decide, by decide, by decide, by decide, by decide, by decide⟩

/-- The frames and the status after a public operation. -/
def callFrames (op : HostOp) (s : State) : Option (List (List Byte) × Option RejKind) :=
  (nextState (hostExec op s)).map fun t => (framesOf t.bus, t.ret.map (·.status))

/-- V6: the boot of a chain of two. -/
theorem test_construct : callFrames (.construct 0 0 0 2) State.reset
    = some ([[0, 0, 9, 0], [0, 0, 0x0C, 0], [9, 0, 0, 0], [0x0C, 0, 0, 0]], some .none) := by decide
/-- R132's example. -/
theorem test_getChipCount : (nextState (hostExec .getChipCount (at_ 12 false))).map (·.ret)
    = some (some ⟨.none, some (.count 8)⟩) := by decide
/-- R133. -/
theorem test_setCommonAnode : (nextState (hostExec (.setCommonAnode true) (at_ 1 false))).map (·.ca) = some true := by
  decide
/-- R134. -/
theorem test_host_shutdown : callFrames (.shutdown 0 true) (at_ 1 false) = some ([[0x0C, 0x00]], some .none) := by decide
/-- R135. -/
theorem test_setScanLimit : callFrames (.setScanLimit 0 7) (at_ 1 false) = some ([[0x0B, 0x07]], some .none) := by decide
theorem test_setScanLimit_bad : callFrames (.setScanLimit 0 8) (at_ 1 false) = some ([], some .invalidValue) := by decide
/-- R136. -/
theorem test_setIntensity : callFrames (.setIntensity 0 15) (at_ 1 false) = some ([[0x0A, 0x0F]], some .none) := by decide
theorem test_setIntensity_bad : callFrames (.setIntensity 0 (-1)) (at_ 1 false) = some ([], some .invalidValue) := by
  decide
/-- R137. -/
theorem test_clearDisplay : callFrames (.clearDisplay 0) (at_ 1 false)
    = some ([[1, 0], [2, 0], [3, 0], [4, 0], [5, 0], [6, 0], [7, 0], [8, 0]], some .none) := by decide
/-- V5. -/
theorem test_setLed : callFrames (.setLed 0 7 7 true) (at_ 1 false) = some ([[0x08, 0x01]], some .none) := by decide
/-- S2: the address is checked first. -/
theorem test_setLed_priority : callFrames (.setLed 2 8 8 true) (at_ 2 false) = some ([], some .invalidAddress) := by decide
/-- R139. -/
theorem test_setRow : callFrames (.setRow 0 2 0xA5) (at_ 1 false) = some ([[0x03, 0xA5]], some .none) := by decide
/-- R140. -/
theorem test_setColumn : callFrames (.setColumn 0 7 0xC0) (at_ 1 false)
    = some ([[1, 1], [2, 1], [3, 0], [4, 0], [5, 0], [6, 0], [7, 0], [8, 0]], some .none) := by decide
/-- V5, common-anode: the last state of `ACC`. -/
theorem test_setColumn_ca : (nextState (hostExec (.setColumn 0 0 0x81) (at_ 1 true))).map (fun t => (t.acc.toList, t.mirror))
    = some ([0, 0, 0, 0, 0, 0, 0, 0xC0], [(0, 0x80), (7, 0x80)]) := by decide
/-- R141. -/
theorem test_setDigit_bad : callFrames (.setDigit 0 0 16 false false) (at_ 2 false) = some ([], some .invalidValue) := by
  decide
theorem test_setDigit : (nextState (hostExec (.setDigit 0 0 3 true true) (at_ 1 false))).map (fun t => (t.mirrorAt 0 0, t.bus))
    = some (Config.glyph 3 ||| 0x80#8,
        [.selLow, .byte 0x01, .byte (flipBits (Config.glyph 3 ||| 0x80#8)), .selHigh]) := by
  generalize h : Config.glyph 3 = g
  have h' : Config.glyph (digitCode 3) = g := h
  simp only [hostExec, hostSetDigit, glyphByte, h']
  clear h h'
  revert g
  decide
/-- R142. -/
theorem test_setChar_space : charCode 200 = 32 ∧ charCode 127 = 127 := by decide
/-- R143, R144. -/
theorem test_getRow : (nextState (hostExec (.getRow 0 2) { at_ 1 false with mirror := [(2, 0xA5)] })).map (·.ret)
    = some (some ⟨.none, some (.row 0xA5)⟩) := by decide
theorem test_getRow_outside : nextState (hostExec (.getRow 0 8) (at_ 1 false)) = none := by decide
theorem test_getLed : (nextState (hostExec (.getLed 0 2 1) { at_ 1 false with mirror := [(2, 0x40)] })).map (·.ret)
    = some (some ⟨.none, some (.pixel true)⟩) := by decide
/-- S5. -/
theorem test_flip : [0xB2#8, 0x01, 0x02, 0x04, 0x08, 0x10, 0x20, 0x40, 0x80].map flipBits
    = [0x96, 0x01, 0x10, 0x20, 0x40, 0x02, 0x04, 0x08, 0x80] := by decide
/-- V4's bit-level line. -/
theorem test_lineBits : lineBits 0xA5 = [true, false, true, false, false, true, false, true] := by decide
/-- P4's end: chip 1 holds `0x60` in register 8 and `0x40` in register 1. -/
theorem test_lastWrite :
    lastWrite (remapEvents 2 1 #v[0x40, 0x40, 0x40, 0x40, 0x40, 0x40, 0x40, 0x60]) 1 0x08 = some 0x60 ∧
    lastWrite (remapEvents 2 1 #v[0x40, 0x40, 0x40, 0x40, 0x40, 0x40, 0x40, 0x60]) 1 0x01 = some 0x40 ∧
    lastWrite (remapEvents 2 1 #v[0x40, 0x40, 0x40, 0x40, 0x40, 0x40, 0x40, 0x60]) 0 0x01 = none := by decide

/-! ## Witnesses: for each obligation with hypotheses, operands and states that meet them together -/

theorem witness_DecodeOfEncode :
    wellFormed (.wr (-128) 0xFF 0xFF) = true ∧ wellFormed (.wr 127 0x00 0x00) = true ∧
      wellFormed (.undefined (-1) 0xFF 0x01) = true ∧ wellFormed (.displayTest 127 0xFF) = true := by decide
theorem witness_EncodeOfDecode :
    decode (.word 0x00800000#32) = .ok (.wr (-128) 0 0) ∧ decode (.pair 0x07#8 0x0E01#16) = .ok (.undefined 7 0x0E 1) :=
  ⟨rfl, rfl⟩
theorem witness_CommandWordsByMask :
    0x00FFFFFF#32 &&& 0xFF000000#32 = 0x00000000#32 ∧ 0x10000001#32 &&& 0xFFFFFFFE#32 = 0x10000000#32 ∧
      (0x10000002#32 &&& 0xFF000000#32 ≠ 0x00000000#32 ∧ 0x10000002#32 &&& 0xFFFFFFFE#32 ≠ 0x10000000#32) := by decide

/-- `s` with `p` presented next. -/
def offering (s : State) (p : Presented) : State := { s with pending := [p] }

theorem witness_StepRunsDecodedInstruction :
    (offering (at_ 1 false) (.command (.word 0x00000180#32))).busy = false ∧
      (offering (at_ 1 false) (.command (.word 0x00000180#32))).pending = .command (.word 0x00000180#32) :: [] ∧
      decode (.word 0x00000180#32) = .ok (.wr 0 0x01 0x80) := ⟨rfl, rfl, rfl⟩
theorem witness_StepRunsHostOperation :
    (offering (at_ 1 false) (.call (.setRow 0 7 0xA5))).busy = false ∧
      (offering (at_ 1 false) (.call (.setRow 0 7 0xA5))).pending = .call (.setRow 0 7 0xA5) :: [] := ⟨rfl, rfl⟩
/-- V1's four reserved words, in a state with BUSY clear. -/
theorem witness_ReservedWordWritesOnlyRej :
    (offering (at_ 1 true) (.command (.word 0x10000002#32))).busy = false ∧
      (offering (at_ 1 true) (.command (.word 0x10000002#32))).pending = .command (.word 0x10000002#32) :: [] ∧
      [0x10000002#32, 0x01000000#32, 0x20000000#32, 0xFFFFFFFF#32].all (fun w =>
        decide (w &&& 0xFF000000#32 ≠ 0x00000000#32 ∧ w &&& 0xFFFFFFFE#32 ≠ 0x10000000#32)) = true :=
  ⟨rfl, rfl, by decide⟩
theorem witness_StepWaitsAndGuardsBusy :
    State.reset.pending = [] ∧ { offering State.reset (.call .getChipCount) with busy := true }.busy = true ∧
      { offering State.reset (.call .getChipCount) with busy := true }.pending = .call .getChipCount :: [] :=
  ⟨rfl, rfl, rfl⟩
theorem witness_ChipCountClamp :
    ((1 : Int) ≤ 1 ∧ (1 : Int) ≤ 8) ∧ ((1 : Int) ≤ 8 ∧ (8 : Int) ≤ 8) ∧ ((0 : Int) < 1 ∨ (8 : Int) < 0) ∧
      ((9 : Int) < 1 ∨ (8 : Int) < 9) := by decide

/-- The hypotheses of a write that is carried out: chip `c` is in the chain. -/
abbrev InChain (s : State) (c : Int) : Prop := 0 ≤ c ∧ c < s.n
/-- Of one that is dropped. -/
abbrev OutOfChain (s : State) (c : Int) : Prop := c < 0 ∨ (s.n : Int) ≤ c
/-- Of the passthrough path. -/
abbrev Passes (s : State) (op : Byte) : Prop := s.ca = false ∨ op.toNat = 0 ∨ 9 ≤ op.toNat
/-- Of the remap path. -/
abbrev Remaps (s : State) (op : Byte) : Prop := s.ca = true ∧ 1 ≤ op.toNat ∧ op.toNat ≤ 8
/-- Of a row, column or digit. -/
abbrev Coord (k : Int) : Prop := 0 ≤ k ∧ k ≤ 7
/-- Of one that is rejected. -/
abbrev NotCoord (k : Int) : Prop := k < 0 ∨ 7 < k

theorem witness_XmitCompletes : InChain (at_ 8 false) 0 ∧ InChain (at_ 8 false) 7 := by decide
theorem witness_XmitOutsideRefused : OutOfChain (at_ 8 false) (-1) ∧ OutOfChain (at_ 8 false) 8 := by decide
theorem witness_OnePairPerChip : 3 < (at_ 4 false).n ∧ (0x00#8 = 0x00#8 → 0x00#8 = 0x00#8) := by decide
theorem witness_WirePositions :
    0 < (at_ 1 false).n ∧ 7 < (at_ 8 false).n ∧ 15 < 2 * (at_ 8 false).n ∧
      15 ≠ 2 * ((at_ 8 false).n - 1 - 7) ∧ 15 ≠ 2 * ((at_ 8 false).n - 1 - 7) + 1 := by decide
/-- Three chips fitted in a chain of `N = 4`, and six. -/
theorem witness_FrameReachesItsChips :
    3 < (at_ 4 false).n ∧ (List.replicate 6 (none : Option Byte)).length = 2 * 3 ∧ 2 < 3 ∧ 2 < (at_ 4 false).n ∧
      (List.replicate 12 (some 0x55#8)).length = 2 * 6 ∧ 3 < 6 := by decide
theorem witness_WrPassthroughCompletes :
    InChain (at_ 2 false) 1 ∧ Passes (at_ 2 false) 0x08 ∧ Passes (at_ 2 true) 0x00 ∧ Passes (at_ 2 true) 0x09 ∧
      Passes (at_ 2 true) 0xFF := by decide
theorem witness_WrRemapCompletes : InChain (at_ 2 true) 1 ∧ Remaps (at_ 2 true) 0x01 ∧ Remaps (at_ 2 true) 0x08 := by
  decide
theorem witness_PassthroughRegistersComplete : InChain (at_ 8 true) 7 ∧ InChain (at_ 1 false) 0 := by decide
theorem witness_UndefinedOpcodesPassThrough :
    InChain (at_ 8 true) 7 ∧ [0x0D#8, 0x0E#8, 0x10#8, 0xFF#8].all (fun op => wellFormed (.undefined 0 op 0xFF)) = true := by
  decide
theorem witness_DigitsCompleteCommonCathode : InChain (at_ 8 false) 7 ∧ (at_ 8 false).ca = false := by decide
theorem witness_DigitsCompleteCommonAnode : InChain (at_ 8 true) 7 ∧ (at_ 8 true).ca = true := by decide
theorem witness_RegisterRowsAreWr :
    asWrite (.digit7 7 0xA5) = some (7, 0x08, 0xA5) ∧ asWrite (.undefined (-1) 0x0E 0x01) = some (-1, 0x0E, 0x01) := by
  decide
theorem witness_WriteOutOfRangeDropped :
    asWrite (.digit7 8 0xA5) = some (8, 0x08, 0xA5) ∧ OutOfChain (at_ 8 true) 8 ∧
      asWrite (.wr (-1) 0x01 0xFF) = some (-1, 0x01, 0xFF) ∧ OutOfChain (at_ 8 true) (-1) := by decide
theorem witness_RemapWritesOneBit :
    InChain (at_ 1 true) 0 ∧ Remaps (at_ 1 true) 0x08 ∧ 7 = (if (0x08#8).toNat = 8 then 7 else 7 - (0x08#8).toNat) ∧
      0 ≠ (if (0x08#8).toNat = 8 then 7 else 7 - (0x08#8).toNat) := by decide
theorem witness_RemapSendsEightFrames :
    InChain (at_ 1 true) 0 ∧ Remaps (at_ 1 true) 0x01 ∧ 7 ≠ (if (0x01#8).toNat = 8 then 7 else 7 - (0x01#8).toNat) := by
  decide
theorem witness_RepeatedRemapResends : InChain (at_ 8 true) 7 ∧ Remaps (at_ 8 true) 0x08 := by decide
theorem witness_TransposeInAnyOrder :
    InChain (at_ 1 true) 0 ∧ (at_ 1 true).ca = true ∧
      ([7, 0, 6, 1, 5, 2, 4, 3] : List (Fin 8)).Perm (List.finRange 8) := by decide
/-- P4's two writes. -/
theorem witness_AccumulatorsAreShared :
    0 < (at_ 2 true).n ∧ 1 < (at_ 2 true).n ∧ Remaps (at_ 2 true) 0x01 ∧ Remaps (at_ 2 true) 0x02 ∧ 0x01#8 ≠ 0x02#8 := by
  decide
theorem witness_StageAThenStageB :
    (⟨1, 0x08, 0x60⟩ : Request) ∈ (stageA true #v[0x40, 0x40, 0x40, 0x40, 0x40, 0x40, 0x40, 0x40] 2 (.wr 1 0x02 0x80)).requests :=
  by decide
theorem witness_PassthroughChangesOneChipRegister :
    InChain (at_ 2 true) 1 ∧ Passes (at_ 2 true) 0x0C ∧ 0 < (at_ 2 true).n := by decide
theorem witness_RemapFillsTheEightRegisters :
    InChain (at_ 2 true) 1 ∧ Remaps (at_ 2 true) 0x08 ∧ (0 < (at_ 2 true).n ∧ 0 ≠ (1 : Int).toNat) ∧
      (1 < (at_ 2 true).n ∧ 9 ≤ (0x09#8).toNat) := by decide
theorem witness_OnlyModeWritesWiringOnlyRemapWritesAcc :
    ∃ t, exec (.wr 0 0x01 0xFF) (at_ 1 true) = .next t ∧ (∀ m, Instr.wr 0 0x01 0xFF ≠ .mode m) ∧ t.acc ≠ (at_ 1 true).acc :=
  ⟨_, rfl, nofun, by decide⟩
theorem witness_InstructionsLeaveCountAndHostAlone :
    (at_ 1 true).sel = true ∧ ∃ t, exec (.wr 0 0x08 0xFF) (at_ 1 true) = .next t := ⟨rfl, _, rfl⟩
theorem witness_InstructionsAppendWholeFrames : ∃ t, exec (.digit7 0 0xFF) (at_ 1 true) = .next t := ⟨_, rfl⟩
theorem witness_RejectionChangesNothing :
    (∃ t, exec (.wr 4 0x01 0xFF) (at_ 4 true) = .next t ∧ (∀ c op d, Instr.wr 4 0x01 0xFF ≠ .xmit c op d) ∧ t.rej ≠ .none) ∧
      ∃ t, hostExec (.setLed 0 7 8 true) (at_ 1 true) = .next t ∧ t.ret = some ⟨.invalidCoordinate, none⟩ ∧
        RejKind.invalidCoordinate ≠ .none := ⟨⟨_, rfl, nofun, by decide⟩, _, rfl, by decide, by decide⟩
theorem witness_RejectionReportsItsKind :
    (∃ t, hostExec (.setScanLimit 0 8) (at_ 1 true) = .next t ∧ t.ret = some ⟨.invalidValue, none⟩) ∧
      (∃ t, hostExec (.setScanLimit 0 7) (at_ 1 true) = .next t ∧ t.ret = some ⟨.none, none⟩) ∧
      ∃ t, exec (.wr (-1) 0x01 0xFF) (at_ 4 true) = .next t ∧ ∀ c op d, Instr.wr (-1) 0x01 0xFF ≠ .xmit c op d :=
  ⟨⟨_, rfl, by decide⟩, ⟨_, rfl, by decide⟩, _, rfl, nofun⟩

/-- A state in which something has happened: a chain of two with one frame sent and the last pixel of the mirror set. -/
def inUse (p : Presented) : State :=
  { offering (at_ 2 true) p with bus := frameEvents 2 1 0x08 0x01, mirror := [(15, 0x01)] }

theorem witness_StepKeepsInvariant :
    (inUse (.command (.word 0x00010180#32))).Inv ∧ ∃ t, step (inUse (.command (.word 0x00010180#32))) = .next t :=
  ⟨⟨by decide, by decide, by decide, by decide, by decide, by decide⟩, _, rfl⟩
/-- Each of the four outcomes, the ranges at their bounds. -/
theorem witness_StepStopsOnlyByName :
    (inUse (.command (.request 2 0x01 0x00))).Inv ∧
      nextState (step (inUse (.command (.request 2 0x01 0x00)))) = none ∧
      nextState (step (inUse (.call (.getRow 0 8)))) = none ∧ nextState (step (inUse (.call (.getRow 2 0)))) = none ∧
      nextState (step (inUse (.call (.getLed 0 7 8)))) = none ∧ nextState (step (inUse (.call (.getLed (-1) 0 0)))) = none ∧
      nextState (step (inUse (.call (.getRow 1 7)))) ≠ none ∧ nextState (step (inUse (.call (.getLed 1 7 7)))) ≠ none :=
  ⟨⟨by decide, by decide, by decide, by decide, by decide, by decide⟩, by decide, by decide, by decide, by decide, by decide,
    by decide, by decide⟩
theorem witness_GettersAnswer :
    InChain (at_ 8 false) 7 ∧ Coord 0 ∧ Coord 7 ∧ OutOfChain (at_ 8 false) 8 ∧ OutOfChain (at_ 8 false) (-1) ∧
      NotCoord (-1) ∧ NotCoord 8 := by decide
theorem witness_ConfigurationOperationsExpand :
    InChain (at_ 2 true) 1 ∧ Coord 0 ∧ Coord 7 ∧ ((0 : Int) ≤ 15 ∧ (15 : Int) ≤ 15) ∧ OutOfChain (at_ 2 true) 2 ∧
      OutOfChain (at_ 2 true) (-1) ∧ NotCoord 8 ∧ NotCoord (-1) ∧ ((16 : Int) < 0 ∨ (15 : Int) < 16) := by decide
theorem witness_SetRowStoresAndSends :
    InChain (at_ 2 true) 1 ∧ Coord 7 ∧ Memory.wf { at_ 2 true with mirror := [(0, 0x80), (15, 0x01)] }.mirror = true ∧
      OutOfChain (at_ 2 true) 2 ∧ NotCoord 8 ∧ NotCoord (-1) := by decide
theorem witness_SetLedChangesOnePixel :
    InChain (at_ 2 true) 1 ∧ Coord 7 ∧ Coord 0 ∧ Memory.wf { at_ 2 true with mirror := [(0, 0x80), (15, 0x01)] }.mirror = true ∧
      OutOfChain (at_ 2 true) 2 ∧ NotCoord 8 ∧ NotCoord (-1) := by decide
theorem witness_SetLedTwiceStillTransmits :
    InChain (at_ 1 true) 0 ∧ Coord 3 ∧ Coord 5 ∧ Memory.wf (at_ 1 true).mirror = true := by decide
theorem witness_SetColumnIsEightSetLeds :
    InChain (at_ 2 true) 1 ∧ Coord 7 ∧ Memory.wf { at_ 2 true with mirror := [(0, 0x80), (15, 0x01)] }.mirror = true ∧
      OutOfChain (at_ 2 true) 2 ∧ NotCoord 8 ∧ NotCoord (-1) := by decide
theorem witness_ClearDisplayZeroesTheChip :
    InChain (at_ 2 true) 1 ∧ Memory.wf { at_ 2 true with mirror := [(0, 0x80), (15, 0x01)] }.mirror = true ∧
      OutOfChain (at_ 2 true) 2 ∧ OutOfChain (at_ 2 true) (-1) := by decide
theorem witness_SetDigitAndSetCharStoreGlyphs :
    InChain (at_ 2 true) 1 ∧ Coord 7 ∧ ((0 : Int) ≤ 15 ∧ (15 : Int) ≤ 15 ∧ (((15 : Fin 128).val : Nat) : Int) = 15) ∧
      Memory.wf (at_ 2 true).mirror = true ∧
      (32 : Fin 128).val = (if (128#8).toNat > 127 then 32 else (128#8).toNat) ∧
      (127 : Fin 128).val = (if (127#8).toNat > 127 then 32 else (127#8).toNat) := by decide
theorem witness_DigitOperationsRejectInOrder :
    OutOfChain (at_ 2 true) 2 ∧ InChain (at_ 2 true) 1 ∧ NotCoord 8 ∧ NotCoord (-1) ∧ Coord 7 ∧
      ((16 : Int) < 0 ∨ (15 : Int) < 16) ∧ ((-1 : Int) < 0 ∨ (15 : Int) < -1) := by decide

end Sys2Proof.Tests
end

section
/-! What a register write that is carried out does, whole (40_register_writes.md): the frame on the wire, the remap, and
the passthrough and digit writes built from them. -/

namespace Sys2Proof.Machine

/-! ## One frame: the buffer sent from its end is the frame of R56 -/

/-- A chip index past the chain leaves the buffer at zero. -/
theorem frameBuffer_outOfChain {n c : Nat} (hc : n ≤ c) (op d : Byte) :
    frameBuffer n c op d = List.replicate (2 * n) 0x00#8 := by
  rw [frameBuffer, List.set_eq_of_length_le (by simp; omega), List.set_eq_of_length_le (by simp; omega)]

/-- The frame buffer by pairs, chip 0 first: no pair but chip `c`'s is nonzero (R111). -/
theorem frameBuffer_eq_flatMap (n c : Nat) (op d : Byte) :
    frameBuffer n c op d = (List.range n).flatMap fun k => if k = c then [d, op] else [0x00#8, 0x00#8] := by
  induction n with
  | zero => simp [frameBuffer]
  | succ n ih =>
    rw [List.range_succ, List.flatMap_append, ← ih]
    obtain hc | rfl | hc := Nat.lt_trichotomy c n
    · simp [frameBuffer, Nat.mul_succ, List.replicate_add, show 2 * c < 2 * n by omega,
        show 2 * c + 1 < 2 * n by omega, hc.ne']
    · rw [frameBuffer_outOfChain le_rfl]
      simp [frameBuffer, pairInBuffer, Nat.mul_succ, List.replicate_add, List.replicate]
    · rw [frameBuffer_outOfChain hc, frameBuffer_outOfChain hc.le]
      simp [Nat.mul_succ, List.replicate_add, List.replicate, hc.ne]

/-- The reversed frame buffer is the frame on the wire, opcode before data (R56, D10). -/
theorem reverse_frameBuffer (n c : Nat) (op d : Byte) :
    (frameBuffer n c op d).reverse = wireFrame n c op d := by
  have hpair : ∀ k, (if k = c then [d, op] else [0x00#8, 0x00#8]).reverse =
      if k = c then [op, d] else [0x00#8, 0x00#8] := fun k => by split <;> rfl
  rw [frameBuffer_eq_flatMap, List.reverse_flatMap]
  exact List.flatMap_congr fun k _ => hpair k

/-- `XMIT` appends the events of one frame and leaves `SEL` high (R110). -/
theorem xmit_eq_frameEvents (c : Nat) (op d : Byte) (s : State) :
    xmit c op d s = { s with sel := true, bus := s.bus ++ frameEvents s.n c op d } := by
  rw [xmit_eq, reverse_frameBuffer, frameEvents]

/-! ## The remap: eight segments -/

@[simp] theorem accAfter_getElem (w : Nat) (d : Byte) (acc : Vector Byte 8) (i : Nat) (hi : i < 8) :
    (accAfter w d acc)[i] = setbit acc[i] w (bit d (readIndex ⟨i, hi⟩)) := by
  simp [accAfter]

/-- One segment puts its accumulator at its final value and sends it (R96, R97). -/
theorem remapSegment_eq_frameEvents (c w : Nat) (d : Byte) (s : State) (cS : Fin 8) :
    remapSegment c w d s cS =
      { s with
        acc := s.acc.set cS.val (accAfter w d s.acc)[cS], sel := true,
        bus := s.bus ++ frameEvents s.n c (targetOpcode cS) (accAfter w d s.acc)[cS] } := by
  simp [remapSegment_eq, reverse_frameBuffer, frameEvents]

/-- The final value of one accumulator does not depend on the others. -/
theorem accAfter_set_getElem_of_ne {i j : Fin 8} (hij : i ≠ j) (w : Nat) (d v : Byte) (acc : Vector Byte 8) :
    (accAfter w d (acc.set i.val v))[j] = (accAfter w d acc)[j] := by
  simp [Vector.getElem_set_ne, Fin.val_ne_of_ne hij]

/-- The accumulators when those of the segments `cSs` have their final value and the others are as before. -/
def accAfterSegments (cSs : List (Fin 8)) (w : Nat) (d : Byte) (acc : Vector Byte 8) : Vector Byte 8 :=
  Vector.ofFn fun cS => if cS ∈ cSs then (accAfter w d acc)[cS] else acc[cS]

@[simp] theorem accAfterSegments_nil (w : Nat) (d : Byte) (acc : Vector Byte 8) :
    accAfterSegments [] w d acc = acc := by
  simp [accAfterSegments]

theorem accAfterSegments_segments (w : Nat) (d : Byte) (acc : Vector Byte 8) :
    accAfterSegments segments w d acc = accAfter w d acc := by
  have hmem : ∀ cS : Fin 8, cS ∈ segments := by decide
  ext i hi
  simp [accAfterSegments, accAfter, hmem]

/-- One segment first, then the rest. -/
theorem accAfterSegments_cons {cS : Fin 8} {rest : List (Fin 8)} (hnotin : cS ∉ rest) (w : Nat) (d : Byte)
    (acc : Vector Byte 8) :
    accAfterSegments rest w d (acc.set cS.val (accAfter w d acc)[cS]) = accAfterSegments (cS :: rest) w d acc := by
  ext j hj : 1
  by_cases hjc : cS = ⟨j, hj⟩
  · subst hjc
    simp [accAfterSegments, hnotin]
  · have hval : cS.val ≠ j := fun h => hjc (Fin.ext h)
    simp [accAfterSegments, Vector.getElem_set_ne, hval, Ne.symm hjc]

/-- Distinct segments do not touch each other's accumulators: carried out one after another they all work on the
accumulators before the first (R96, R97). -/
theorem foldl_remapSegment (c w : Nat) (d : Byte) (cSs : List (Fin 8)) (hnd : cSs.Nodup) (s : State) :
    cSs.foldl (remapSegment c w d) s =
      { s with
        acc := accAfterSegments cSs w d s.acc, sel := s.sel || !cSs.isEmpty,
        bus := s.bus ++ cSs.flatMap fun cS => frameEvents s.n c (targetOpcode cS) (accAfter w d s.acc)[cS] } := by
  induction cSs generalizing s with
  | nil => simp
  | cons cS rest ih =>
    obtain ⟨hnotin, hrest⟩ := List.nodup_cons.1 hnd
    have hframes : ∀ k ∈ rest, frameEvents s.n c (targetOpcode k)
        (accAfter w d (s.acc.set cS.val (accAfter w d s.acc)[cS]))[k] =
          frameEvents s.n c (targetOpcode k) (accAfter w d s.acc)[k] := fun k hk => by
      rw [accAfter_set_getElem_of_ne (ne_of_mem_of_not_mem hk hnotin).symm]
    rw [List.foldl_cons, ih hrest, remapSegment_eq_frameEvents]
    simp only [accAfterSegments_cons hnotin, List.flatMap_congr hframes]
    simp

/-- The remap puts every accumulator at its final value and sends all eight, registers 1 to 8 in order (R93, R97). -/
theorem remap_eq (c w : Nat) (d : Byte) (s : State) :
    remap c w d s =
      { s with sel := true, acc := accAfter w d s.acc, bus := s.bus ++ remapEvents s.n c (accAfter w d s.acc) } := by
  have horder : segments = List.finRange 8 := by decide
  rw [remap, foldl_remapSegment c w d segments (by decide), accAfterSegments_segments, remapEvents, ← horder]
  simp [segments]

/-! ## A register write to a chip of the chain -/

section
variable {s : State} {c : Int} (h0 : 0 ≤ c) (hn : c < s.n)
include h0 hn

/-- A chip address in `0..N-1` passes the check (R90). -/
theorem checkedWrite_inChain (act : Nat → State → State) :
    checkedWrite c act s = act c.toNat (s.setRej .none) := by
  simp [checkedWrite, chipOk, h0, hn]

theorem passthroughWrite_inChain (op d : Byte) :
    passthroughWrite op c d s = s.afterPassthrough c.toNat op d := by
  rw [passthroughWrite, checkedWrite_inChain h0 hn, xmit_eq_frameEvents]
  rfl

theorem registerWrite_inChain_of_not_isDigitOpcode {op : Byte} (hop : isDigitOpcode op = false) (d : Byte) :
    registerWrite c op d s = s.afterPassthrough c.toNat op d := by
  rw [registerWrite, checkedWrite_inChain h0 hn, hop, Bool.and_false, if_neg Bool.false_ne_true, xmit_eq_frameEvents]
  rfl

theorem digitWrite_commonCathode (hca : s.ca = false) (op : Byte) (w : Nat) (d : Byte) :
    digitWrite op w c d s = s.afterPassthrough c.toNat op d := by
  rw [digitWrite, checkedWrite_inChain h0 hn, State.setRej_ca, hca, if_neg Bool.false_ne_true, xmit_eq_frameEvents]
  rfl

theorem digitWrite_commonAnode (hca : s.ca = true) (op : Byte) (w : Nat) (d : Byte) :
    digitWrite op w c d s = s.afterRemap c.toNat w d := by
  rw [digitWrite, checkedWrite_inChain h0 hn, State.setRej_ca, hca, if_pos rfl, remap_eq]
  rfl

end

/-- No opcode without a register is a digit register (R57). -/
theorem isDigitOpcode_of_isUndefinedOpcode {op : Byte} (hop : isUndefinedOpcode op = true) :
    isDigitOpcode op = false := by
  simp only [isUndefinedOpcode, isDigitOpcode, decide_eq_true_eq, decide_eq_false_iff_not] at hop ⊢
  omega

/-! ## The obligations -/

/-- Settles O19: each of the six rows is a passthrough write of its opcode. -/
theorem passthroughRegistersComplete : Obligations.PassthroughRegistersComplete := by
  intro s c d h0 hn
  have hwrite (op : Byte) :
      (.next (passthroughWrite op c d s) : Host.Outcome State Fault Refusal) =
        .next (s.afterPassthrough c.toNat op d) :=
    congrArg _ (passthroughWrite_inChain h0 hn op d)
  exact ⟨hwrite 0x00#8, hwrite 0x09#8, hwrite 0x0A#8, hwrite 0x0B#8, hwrite 0x0C#8, hwrite 0x0F#8⟩

/-- Settles O20: an opcode with no register is outside 1..8, so the general rule of `WR` passes it through. -/
theorem undefinedOpcodesPassThrough : Obligations.UndefinedOpcodesPassThrough := by
  intro s c op d h0 hn hwf
  rw [wellFormed, Bool.and_eq_true] at hwf
  obtain ⟨-, hop⟩ := hwf
  exact congrArg _ (registerWrite_inChain_of_not_isDigitOpcode h0 hn (isDigitOpcode_of_isUndefinedOpcode hop) d)

/-- Settles O21: each digit row is a digit write, which in common-cathode mode is one frame. -/
theorem digitsCompleteCommonCathode : Obligations.DigitsCompleteCommonCathode := by
  intro s c d h0 hn hca
  have hwrite (op : Byte) (w : Nat) :
      (.next (digitWrite op w c d s) : Host.Outcome State Fault Refusal) =
        .next (s.afterPassthrough c.toNat op d) :=
    congrArg _ (digitWrite_commonCathode h0 hn hca op w d)
  exact ⟨hwrite 0x01#8 6, hwrite 0x02#8 5, hwrite 0x03#8 4, hwrite 0x04#8 3,
    hwrite 0x05#8 2, hwrite 0x06#8 1, hwrite 0x07#8 0, hwrite 0x08#8 7⟩

/-- Settles O22: each digit row is a digit write, which in common-anode mode is the remap at the row's write index. -/
theorem digitsCompleteCommonAnode : Obligations.DigitsCompleteCommonAnode := by
  intro s c d h0 hn hca
  have hwrite (op : Byte) (w : Nat) :
      (.next (digitWrite op w c d s) : Host.Outcome State Fault Refusal) = .next (s.afterRemap c.toNat w d) :=
    congrArg _ (digitWrite_commonAnode h0 hn hca op w d)
  exact ⟨hwrite 0x01#8 6, hwrite 0x02#8 5, hwrite 0x03#8 4, hwrite 0x04#8 3,
    hwrite 0x05#8 2, hwrite 0x06#8 1, hwrite 0x07#8 0, hwrite 0x08#8 7⟩

end Sys2Proof.Machine
end

section
/-! What a remapped `WR` does to single bits of the accumulators, and which frames it puts on the bus
(41_remapper.md). -/

namespace Sys2Proof.Machine

/-! ## The remap path of `WR` -/

/-- `WR` of a digit register in common-anode mode is the remap at the opcode's write index (R90, R93). -/
theorem registerWrite_commonAnode {s : State} {addr : Int} {op : Byte} (h0 : 0 ≤ addr) (hn : addr < s.n)
    (hca : s.ca = true) (hop : isDigitOpcode op = true) (d : Byte) :
    registerWrite addr op d s = s.afterRemap addr.toNat (writeIndex op) d := by
  rw [registerWrite, checkedWrite_inChain h0 hn, State.setRej_ca, hca, hop, Bool.and_self, if_pos rfl, remap_eq]
  rfl

theorem exec_wr_commonAnode {s : State} {addr : Int} {op : Byte} (h0 : 0 ≤ addr) (hn : addr < s.n)
    (hca : s.ca = true) (hlow : 1 ≤ op.toNat) (hhigh : op.toNat ≤ 8) (d : Byte) :
    exec (.wr addr op d) s = .next (s.afterRemap addr.toNat (writeIndex op) d) :=
  congrArg _ (registerWrite_commonAnode h0 hn hca (decide_eq_true ⟨hlow, hhigh⟩) d)

/-! ## One bit of one accumulator -/

/-- The write index of a digit register is a bit position (R95). -/
theorem writeIndex_lt {op : Byte} (hlow : 1 ≤ op.toNat) : writeIndex op < 8 := by
  unfold writeIndex
  split <;> omega

/-- The accumulators after the remap, bit by bit (R94, R96). -/
theorem accAfter_getLsbD {w j : Nat} (hw : w < 8) (hj : j < 8) (d : Byte) (acc : Vector Byte 8) (cS : Fin 8) :
    (accAfter w d acc)[cS].getLsbD j = if j = w then d.getLsbD (readIndex cS) else acc[cS].getLsbD j := by
  rw [Fin.getElem_fin, accAfter_getElem]
  exact bit_setbit _ w j _ hw hj

/-! ## The frames of one remap -/

theorem length_wireFrame (n c : Nat) (op d : Byte) : (wireFrame n c op d).length = 2 * n := by
  simp [← reverse_frameBuffer, frameBuffer]

/-- A frame on the bus is its bytes and two select edges (R113). -/
theorem length_bracketed (frame : List Byte) : (bracketed frame).length = frame.length + 2 := by
  simp [bracketed]

/-- Whole frames appended to the bus are as many more frames committed. -/
theorem framesOf_append_flatMap_bracketed (bus : List BusEvent) (frames : List (List Byte)) :
    framesOf (bus ++ frames.flatMap bracketed) = framesOf bus ++ frames := by
  induction frames generalizing bus with
  | nil => simp
  | cons frame rest ih =>
    rw [List.flatMap_cons, ← List.append_assoc, ih, framesOf_append_bracketed, ← List.append_cons]

/-- The frames of a remapped write to chip `c`, from the accumulators after it: registers 1 to 8 in order (R97). -/
def remapFrames (n c : Nat) (acc : Vector Byte 8) : List (List Byte) :=
  (List.finRange 8).map fun cS => wireFrame n c (targetOpcode cS) acc[cS]

theorem remapEvents_eq_flatMap_remapFrames (n c : Nat) (acc : Vector Byte 8) :
    remapEvents n c acc = (remapFrames n c acc).flatMap bracketed := by
  rw [remapFrames, List.flatMap_map]
  rfl

@[simp] theorem length_remapFrames (n c : Nat) (acc : Vector Byte 8) : (remapFrames n c acc).length = 8 := by
  simp [remapFrames]

theorem length_of_mem_remapFrames {n c : Nat} {acc : Vector Byte 8} {frame : List Byte}
    (hframe : frame ∈ remapFrames n c acc) : frame.length = 2 * n := by
  obtain ⟨cS, -, rfl⟩ := List.mem_map.1 hframe
  exact length_wireFrame ..

/-- Eight frames of `2n` bytes and two select edges each (R102). -/
theorem length_remapEvents (n c : Nat) (acc : Vector Byte 8) :
    (remapEvents n c acc).length = 8 * (2 * n + 2) := by
  have hlen : ∀ frame ∈ remapFrames n c acc, (bracketed frame).length = 2 * n + 2 := fun frame hframe => by
    rw [length_bracketed, length_of_mem_remapFrames hframe]
  rw [remapEvents_eq_flatMap_remapFrames, List.length_flatMap, List.map_congr_left hlen, List.map_const',
    length_remapFrames, List.sum_replicate, smul_eq_mul]

/-! ## The obligations -/

/-- Settles O25: the remap sets one bit of each accumulator, at the write index, from the segment's read index. -/
theorem remapWritesOneBit : Obligations.RemapWritesOneBit := by
  intro s addr op d h0 hn hca hlow hhigh
  exact ⟨_, exec_wr_commonAnode h0 hn hca hlow hhigh d,
    fun cS _ hj => accAfter_getLsbD (writeIndex_lt hlow) hj d s.acc cS⟩

/-- Settles O26: the bus grows by the eight frames of the remap, and away from the write index every bit is as it was. -/
theorem remapSendsEightFrames : Obligations.RemapSendsEightFrames := by
  intro s addr op d h0 hn hca hlow hhigh
  refine ⟨_, remapFrames s.n addr.toNat (accAfter (writeIndex op) d s.acc),
    exec_wr_commonAnode h0 hn hca hlow hhigh d, ?frames, length_remapFrames .., fun _ => length_of_mem_remapFrames,
    ?events, fun cS j hj hne => ?frame⟩
  case frames =>
    rw [State.afterRemap, remapEvents_eq_flatMap_remapFrames, framesOf_append_flatMap_bracketed]
  case events =>
    rw [State.afterRemap, List.length_append, length_remapEvents]
  case frame =>
    exact (accAfter_getLsbD (writeIndex_lt hlow) hj d s.acc cS).trans (if_neg hne)

end Sys2Proof.Machine
end

section
/-! What the chips of the chain commit from the frame of one `XMIT` (42_serializer.md section 1). -/

namespace Sys2Proof.Machine

/-- A request to a chip of the chain is carried out: the frame of R56 is appended to the bus (R110, R119). -/
theorem exec_xmit_of_lt {s : State} {c : Nat} (hc : c < s.n) (op d : Byte) :
    exec (.xmit c op d) s = .next { s with sel := true, bus := s.bus ++ frameEvents s.n c op d } := by
  have hchip : chipOk s.n c = true := decide_eq_true ⟨by omega, by omega⟩
  rw [← xmit_eq_frameEvents]
  exact if_pos hchip

/-- One `XMIT` is one more frame on the bus (R113). -/
theorem framesOf_append_frameEvents (bus : List BusEvent) (n c : Nat) (op d : Byte) :
    framesOf (bus ++ frameEvents n c op d) = framesOf bus ++ [wireFrame n c op d] :=
  framesOf_append_bracketed bus _

/-! ## The frame read from its end -/

/-- The frame from its last byte to its first is the buffer (R112). -/
theorem reverse_wireFrame (n c : Nat) (op d : Byte) : (wireFrame n c op d).reverse = frameBuffer n c op d := by
  rw [← reverse_frameBuffer, List.reverse_reverse]

/-- The data byte of pair `k` of the buffer (R111). -/
theorem frameBuffer_getElem?_data {n k : Nat} (hk : k < n) (c : Nat) (op d : Byte) :
    (frameBuffer n c op d)[2 * k]? = some (if k = c then d else 0x00#8) := by
  have hodd : 2 * c + 1 ≠ 2 * k := by omega
  have hlt : 2 * k < 2 * n := by omega
  rw [frameBuffer, List.getElem?_set_ne hodd]
  by_cases hkc : k = c
  · subst hkc
    simp [hlt, pairInBuffer]
  · have heven : 2 * c ≠ 2 * k := by omega
    rw [List.getElem?_set_ne heven, List.getElem?_replicate_of_lt hlt, if_neg hkc]

/-- The opcode byte of pair `k` of the buffer (R111). -/
theorem frameBuffer_getElem?_opcode {n k : Nat} (hk : k < n) (c : Nat) (op d : Byte) :
    (frameBuffer n c op d)[2 * k + 1]? = some (if k = c then op else 0x00#8) := by
  have heven : 2 * c ≠ 2 * k + 1 := by omega
  have hlt : 2 * k + 1 < 2 * n := by omega
  rw [frameBuffer]
  by_cases hkc : k = c
  · subst hkc
    simp [hlt, pairInBuffer]
  · have hodd : 2 * c + 1 ≠ 2 * k + 1 := by omega
    rw [List.getElem?_set_ne hodd, List.getElem?_set_ne heven, List.getElem?_replicate_of_lt hlt, if_neg hkc]

/-- Every chip of the chain commits one pair: the addressed one `(op, d)`, any other `(NOOP, 0)` (R115, R118, D10). -/
theorem committedPair_wireFrame {n k : Nat} (hk : k < n) (c : Nat) (op d : Byte) :
    committedPair (wireFrame n c op d) k = some (if k = c then (op, d) else (0x00#8, 0x00#8)) := by
  rw [committedPair, reverse_wireFrame, frameBuffer_getElem?_opcode hk, frameBuffer_getElem?_data hk]
  by_cases hkc : k = c <;> simp [hkc]

/-- A request of `(NOOP, 0)` sends zero bytes only (R115). -/
theorem wireFrame_zero (n c : Nat) : wireFrame n c 0x00#8 0x00#8 = List.replicate (2 * n) 0x00#8 := by
  rw [← reverse_frameBuffer, frameBuffer, pairInBuffer, List.set_replicate_self, List.set_replicate_self,
    List.reverse_replicate]

/-! ## The obligation -/

/-- Settles O13: the frame appended is the frame of R56, of which each chip commits its own pair. -/
theorem onePairPerChip : Obligations.OnePairPerChip := by
  intro s c op d hc
  refine ⟨_, wireFrame s.n c op d, exec_xmit_of_lt hc op d, framesOf_append_frameEvents .., length_wireFrame ..,
    fun k hk => committedPair_wireFrame hk c op d, ?zero⟩
  case zero =>
    rintro rfl rfl
    exact wireFrame_zero s.n c

end Sys2Proof.Machine
end

section
/-! The checks of the public operations: the first that fails decides what the caller is told (43_host_ops.md R130,
D15), and a dropped call writes nothing else but `REJ` (60_exceptions.md R161). -/

namespace Sys2Proof.Machine

/-! ## Each check as its range -/

theorem chipOk_eq_true {n : Nat} {chip : Int} (h0 : 0 ≤ chip) (hn : chip < n) : chipOk n chip = true :=
  decide_eq_true ⟨h0, hn⟩

theorem chipOk_eq_false {n : Nat} {chip : Int} (hchip : chip < 0 ∨ (n : Int) ≤ chip) : chipOk n chip = false :=
  decide_eq_false (by omega)

theorem coordOk_eq_true {k : Int} (h0 : 0 ≤ k) (h7 : k ≤ 7) : coordOk k = true :=
  decide_eq_true ⟨h0, h7⟩

theorem coordOk_eq_false {k : Int} (hk : k < 0 ∨ 7 < k) : coordOk k = false :=
  decide_eq_false (by omega)

theorem valueOk_eq_true {hi v : Int} (h0 : 0 ≤ v) (hhi : v ≤ hi) : valueOk hi v = true :=
  decide_eq_true ⟨h0, hhi⟩

theorem valueOk_eq_false {hi v : Int} (hv : v < 0 ∨ hi < v) : valueOk hi v = false :=
  decide_eq_false (by omega)

/-! ## The first failing check -/

@[simp] theorem firstFailure_nil : firstFailure [] = .none := rfl

@[simp] theorem firstFailure_cons_true (kind : RejKind) (rest : List (Bool × RejKind)) :
    firstFailure ((true, kind) :: rest) = firstFailure rest := rfl

@[simp] theorem firstFailure_cons_false (kind : RejKind) (rest : List (Bool × RejKind)) :
    firstFailure ((false, kind) :: rest) = kind := rfl

/-- A call whose checks all pass is carried out and reports `Ok` (R153). -/
theorem validated_accepted {checks : List (Bool × RejKind)} (hpass : firstFailure checks = .none)
    (act : State → State) (s : State) :
    validated checks act s = .next ((act s).setRet ⟨.none, none⟩) := by
  obtain ⟨-, h⟩ | ⟨hne, -⟩ := validated_cases checks act s
  · exact h
  · exact absurd hpass hne

/-- A call with a failing check is dropped: only `REJ` and the report are written (R161). -/
theorem validated_dropped {checks : List (Bool × RejKind)} {kind : RejKind} (hfail : firstFailure checks = kind)
    (hkind : kind ≠ .none) (act : State → State) (s : State) :
    validated checks act s = .next { s with rej := kind, ret := some ⟨kind, none⟩ } := by
  subst hfail
  obtain ⟨hpass, -⟩ | ⟨-, h⟩ := validated_cases checks act s
  · exact absurd hpass hkind
  · exact h

/-- A chip outside the chain is reported whatever the other arguments are (D15). -/
theorem validated_chip_outOfChain {s : State} {chip : Int} (hchip : chip < 0 ∨ (s.n : Int) ≤ chip)
    (rest : List (Bool × RejKind)) (act : State → State) :
    validated (addressCheck s.n chip :: rest) act s =
      .next { s with rej := .invalidAddress, ret := some ⟨.invalidAddress, none⟩ } :=
  validated_dropped (by simp [addressCheck, chipOk_eq_false hchip]) (by decide) act s

section
variable {s : State} {chip : Int} (h0 : 0 ≤ chip) (hn : chip < s.n)
include h0 hn

/-- With a chip of the chain the checks after the first decide. -/
theorem firstFailure_addressCheck_inChain (rest : List (Bool × RejKind)) :
    firstFailure (addressCheck s.n chip :: rest) = firstFailure rest := by
  simp [addressCheck, chipOk_eq_true h0 hn]

/-- With a chip of the chain a row, column or digit outside `0..7` is reported next (D15). -/
theorem validated_coord_outOfRange {k : Int} (hk : k < 0 ∨ 7 < k) (rest : List (Bool × RejKind))
    (act : State → State) :
    validated (addressCheck s.n chip :: coordCheck k :: rest) act s =
      .next { s with rej := .invalidCoordinate, ret := some ⟨.invalidCoordinate, none⟩ } :=
  validated_dropped
    (by simp [firstFailure_addressCheck_inChain h0 hn, coordCheck, coordOk_eq_false hk]) (by decide) act s

/-- With a chip of the chain a configuration value outside `0..hi` is reported next (R135, R136). -/
theorem validated_value_outOfRange {hi v : Int} (hv : v < 0 ∨ hi < v) (act : State → State) :
    validated [addressCheck s.n chip, valueCheck hi v] act s =
      .next { s with rej := .invalidValue, ret := some ⟨.invalidValue, none⟩ } :=
  validated_dropped
    (by simp [firstFailure_addressCheck_inChain h0 hn, valueCheck, valueOk_eq_false hv]) (by decide) act s

end

end Sys2Proof.Machine
end

section
/-! The public operations that touch no mirror byte: the mode, the getters and the configuration writes
(43_host_ops.md R132 to R136, R143, R144). -/

namespace Sys2Proof.Machine

/-- Settles O42: `setCommonAnode` runs `MODE`'s own write, and adds the report. -/
theorem setCommonAnodeIsMode : Obligations.SetCommonAnodeIsMode := fun s b =>
  ⟨modeWrite b s, rfl, rfl, rfl, rfl, rfl⟩

/-- Settles O43: in range the checks of the getters pass and the byte or bit is returned; out of range one of them
fails. -/
theorem gettersAnswer : Obligations.GettersAnswer := by
  refine ⟨fun _ => rfl, ?row, ?led, ?rowOutside, ?ledOutside⟩
  case row =>
    intro s chip row h0 hn hr0 hr7
    exact if_pos (by rw [chipOk_eq_true h0 hn, coordOk_eq_true hr0 hr7, Bool.and_self])
  case led =>
    intro s chip row col h0 hn hr0 hr7 hk0 hk7
    exact if_pos (by rw [chipOk_eq_true h0 hn, coordOk_eq_true hr0 hr7, coordOk_eq_true hk0 hk7]; rfl)
  case rowOutside =>
    intro s chip row hout
    refine if_neg fun hok => ?_
    simp only [chipOk, coordOk, Bool.and_eq_true, decide_eq_true_eq] at hok
    omega
  case ledOutside =>
    intro s chip row col hout
    refine if_neg fun hok => ?_
    simp only [chipOk, coordOk, Bool.and_eq_true, decide_eq_true_eq] at hok
    omega

/-- A configuration operation whose checks pass is the `WR` of a register outside 1..8: one frame in both modes, the
mirror and the accumulators as before (R134 to R136). -/
theorem validated_configurationWrite {s : State} {chip : Int} (h0 : 0 ≤ chip) (hn : chip < s.n)
    {checks : List (Bool × RejKind)} (hpass : firstFailure checks = .none)
    {op : Byte} (hop : isDigitOpcode op = false) (d : Byte) :
    ∃ t, exec (.wr chip op d) s = .next t ∧ t.mirror = s.mirror ∧ t.acc = s.acc ∧
      t.bus = s.bus ++ frameEvents s.n chip.toNat op d ∧
      validated checks (registerWrite chip op d) s = .next { t with ret := some ⟨.none, none⟩ } := by
  have hwrite := registerWrite_inChain_of_not_isDigitOpcode h0 hn hop d
  refine ⟨s.afterPassthrough chip.toNat op d, congrArg _ hwrite, rfl, rfl, rfl, ?_⟩
  rw [validated_accepted hpass, hwrite]
  rfl

/-- A value in the range of a byte keeps its value as one. -/
theorem toNat_ofInt_byte {v : Int} (h0 : 0 ≤ v) (hv : v ≤ 255) : (BitVec.ofInt 8 v).toNat = v.toNat := by
  rw [BitVec.toNat_ofInt]
  omega

/-- Settles O44: with its checks passed each is a configuration write; a bad chip is found first, a bad value next. -/
theorem configurationOperationsExpand : Obligations.ConfigurationOperationsExpand := by
  refine ⟨?shutdown, ?scanLimit, ?intensity, ?shutdownChip, ?valueChip, ?limitValue, ?intensityValue⟩
  case shutdown =>
    intro s chip enter h0 hn
    exact validated_configurationWrite h0 hn (firstFailure_addressCheck_inChain h0 hn []) rfl _
  case scanLimit =>
    intro s chip limit h0 hn hl0 hl7
    have hpass : firstFailure [addressCheck s.n chip, valueCheck 7 limit] = .none := by
      simp [firstFailure_addressCheck_inChain h0 hn, valueCheck, valueOk_eq_true hl0 hl7]
    obtain ⟨t, hexec, hmirror, hacc, -, hcall⟩ :=
      validated_configurationWrite h0 hn hpass (op := 0x0B#8) rfl (BitVec.ofInt 8 limit)
    exact ⟨t, _, toNat_ofInt_byte hl0 (by omega), hexec, hmirror, hacc, hcall⟩
  case intensity =>
    intro s chip value h0 hn hv0 hv15
    have hpass : firstFailure [addressCheck s.n chip, valueCheck 15 value] = .none := by
      simp [firstFailure_addressCheck_inChain h0 hn, valueCheck, valueOk_eq_true hv0 hv15]
    obtain ⟨t, hexec, hmirror, hacc, -, hcall⟩ :=
      validated_configurationWrite h0 hn hpass (op := 0x0A#8) rfl (BitVec.ofInt 8 value)
    exact ⟨t, _, toNat_ofInt_byte hv0 (by omega), hexec, hmirror, hacc, hcall⟩
  case shutdownChip => exact fun s chip enter hchip => ⟨_, validated_chip_outOfChain hchip _ _⟩
  case valueChip =>
    exact fun s chip v hchip => ⟨_, validated_chip_outOfChain hchip _ _, validated_chip_outOfChain hchip _ _⟩
  case limitValue => exact fun s chip limit h0 hn hv => ⟨_, validated_value_outOfRange h0 hn hv _⟩
  case intensityValue => exact fun s chip value h0 hn hv => ⟨_, validated_value_outOfRange h0 hn hv _⟩

end Sys2Proof.Machine
end

section
/-! Storing a row byte in the mirror and sending it (43_host_ops.md R138, R139): what a register write leaves alone, the
byte a pixel makes, and `setRow` and `setLed` from them. -/

namespace Sys2Proof.Machine

/-! ## A register write whole, and what it leaves alone -/

/-- A register write is the drop, the remap or the passthrough, each with its whole next state (R90, R92, R93). -/
theorem registerWrite_eq (addr : Int) (op d : Byte) (s : State) :
    registerWrite addr op d s =
      if chipOk s.n addr then
        if s.ca && isDigitOpcode op then s.afterRemap addr.toNat (writeIndex op) d
        else s.afterPassthrough addr.toNat op d
      else s.setRej .invalidAddress := by
  simp only [registerWrite, checkedWrite, State.setRej_ca, remap_eq, xmit_eq_frameEvents]
  rfl

@[simp] theorem registerWrite_n (addr : Int) (op d : Byte) (s : State) : (registerWrite addr op d s).n = s.n := by
  rw [registerWrite_eq]
  split_ifs <;> rfl

@[simp] theorem registerWrite_ca (addr : Int) (op d : Byte) (s : State) : (registerWrite addr op d s).ca = s.ca := by
  rw [registerWrite_eq]
  split_ifs <;> rfl

@[simp] theorem registerWrite_mirror (addr : Int) (op d : Byte) (s : State) :
    (registerWrite addr op d s).mirror = s.mirror := by
  rw [registerWrite_eq]
  split_ifs <;> rfl

/-- No register write reads what the last operation returned (log 9). -/
theorem registerWrite_setRet (addr : Int) (op d : Byte) (s : State) (r : Ret) :
    registerWrite addr op d (s.setRet r) = (registerWrite addr op d s).setRet r := by
  rw [registerWrite_eq addr op d s, apply_ite (State.setRet · r), apply_ite (State.setRet · r)]
  exact registerWrite_eq addr op d (s.setRet r)

/-! ## A row byte stored and sent -/

@[simp] theorem storeRow_n (c r : Nat) (stored sent : Byte) (s : State) : (storeRow c r stored sent s).n = s.n := by
  simp [storeRow]

@[simp] theorem storeRow_ca (c r : Nat) (stored sent : Byte) (s : State) : (storeRow c r stored sent s).ca = s.ca := by
  simp [storeRow]

@[simp] theorem storeRow_mirror (c r : Nat) (stored sent : Byte) (s : State) :
    (storeRow c r stored sent s).mirror = Memory.write s.mirror (mirrorAddr c r) stored := by
  simp [storeRow]

theorem storeRow_setRet (c r : Nat) (stored sent : Byte) (s : State) (ret : Ret) :
    storeRow c r stored sent (s.setRet ret) = (storeRow c r stored sent s).setRet ret :=
  registerWrite_setRet _ _ _ (s.setMirror c r stored) ret

/-- The mirror after a row byte is stored: that byte there, every other as before (R32). -/
theorem storeRow_mirrorAt {s : State} (hwf : Memory.wf s.mirror = true) {r r' : Nat} (hr : r < 8) (hr' : r' < 8)
    (c c' : Nat) (stored sent : Byte) :
    (storeRow c r stored sent s).mirrorAt c' r' = if c' = c ∧ r' = r then stored else s.mirrorAt c' r' := by
  rw [← s.mirrorAt_setMirror c r c' r' stored hwf hr hr', State.mirrorAt, storeRow_mirror]
  rfl

/-- Sending a row is the `WR` of register `row + 1` to its chip, after the mirror has the byte (R139). -/
theorem exec_wr_setMirror {chip : Int} (h0 : 0 ≤ chip) (r : Nat) (stored sent : Byte) (s : State) :
    exec (.wr chip (BitVec.ofNat 8 (r + 1)) sent) (s.setMirror chip.toNat r stored) =
      .next (storeRow chip.toNat r stored sent s) := by
  rw [storeRow, Int.toNat_of_nonneg h0]
  rfl

/-! ## The row byte a pixel makes -/

/-- Setting or clearing a pixel stores and sends its row's byte with that one bit set to `on` (R138). -/
theorem setPixel_eq_storeRow (c r k : Nat) (on : Bool) (s : State) :
    setPixel c r k on s =
      storeRow c r (setbit (s.mirrorAt c r) (7 - k) on) (setbit (s.mirrorAt c r) (7 - k) on) s := by
  have hbyte : (if on then s.mirrorAt c r ||| oneBit (7 - k) else s.mirrorAt c r &&& ~~~oneBit (7 - k)) =
      setbit (s.mirrorAt c r) (7 - k) on := by
    cases on
    · simp [setbit]
    · ext i hi
      cases h : (oneBit (7 - k))[i] <;> simp [setbit, h]
  rw [← hbyte]
  rfl

/-- The pixels of a row, column 0 at bit 7, after one of them is set to `on` (R31, R138). -/
theorem getLsbD_setbit_pixel {k k' : Nat} (hk : k < 8) (hk' : k' < 8) (v : Byte) (on : Bool) :
    (setbit v (7 - k) on).getLsbD (7 - k') = if k' = k then on else v.getLsbD (7 - k') := by
  have hiff : 7 - k' = 7 - k ↔ k' = k := by omega
  simpa only [bit, hiff] using bit_setbit v (7 - k) (7 - k') on (by omega) (by omega)

/-! ## `setRow` and `setLed` -/

section
variable {s : State} {chip row : Int} (h0 : 0 ≤ chip) (hn : chip < s.n) (hr0 : 0 ≤ row) (hr7 : row ≤ 7)
include h0 hn hr0 hr7

theorem hostExec_setRow (v : Byte) :
    hostExec (.setRow chip row v) s = .next ((storeRow chip.toNat row.toNat v v s).setRet ⟨.none, none⟩) := by
  have hpass : firstFailure [addressCheck s.n chip, coordCheck row] = .none := by
    simp [firstFailure_addressCheck_inChain h0 hn, coordCheck, coordOk_eq_true hr0 hr7]
  exact validated_accepted hpass _ s

theorem hostExec_setLed {col : Int} (hk0 : 0 ≤ col) (hk7 : col ≤ 7) (on : Bool) :
    hostExec (.setLed chip row col on) s =
      .next ((setPixel chip.toNat row.toNat col.toNat on s).setRet ⟨.none, none⟩) := by
  have hpass : firstFailure [addressCheck s.n chip, coordCheck row, coordCheck col] = .none := by
    simp [firstFailure_addressCheck_inChain h0 hn, coordCheck, coordOk_eq_true hr0 hr7, coordOk_eq_true hk0 hk7]
  exact validated_accepted hpass _ s

end

/-- A row or a column outside `0..7` drops `setLed` on a chip of the chain (R138). -/
theorem hostExec_setLed_coord_outOfRange {s : State} {chip row col : Int} (h0 : 0 ≤ chip) (hn : chip < s.n)
    (hout : row < 0 ∨ 7 < row ∨ col < 0 ∨ 7 < col) (on : Bool) :
    hostExec (.setLed chip row col on) s =
      .next { s with rej := .invalidCoordinate, ret := some ⟨.invalidCoordinate, none⟩ } := by
  by_cases hrow : row < 0 ∨ 7 < row
  · exact validated_coord_outOfRange h0 hn hrow _ _
  · have hfail : firstFailure [addressCheck s.n chip, coordCheck row, coordCheck col] = .invalidCoordinate := by
      simp [firstFailure_addressCheck_inChain h0 hn, coordCheck, coordOk_eq_true (k := row) (by omega) (by omega),
        coordOk_eq_false (k := col) (by omega)]
    exact validated_dropped hfail (by decide) _ s

/-- Settles O45: the byte is stored and sent, so a read of the mirror gives it back. -/
theorem setRowStoresAndSends : Obligations.SetRowStoresAndSends := by
  refine ⟨?carriedOut, fun s chip row v hchip => ⟨_, validated_chip_outOfChain hchip _ _⟩,
    fun s chip row v h0 hn hrow => ⟨_, validated_coord_outOfRange h0 hn hrow _ _⟩⟩
  case carriedOut =>
    intro s chip row v h0 hn hr0 hr7 hwf
    have hr : row.toNat < 8 := by omega
    have hstored : (storeRow chip.toNat row.toNat v v s).mirrorAt chip.toNat row.toNat = v := by
      rw [storeRow_mirrorAt hwf hr hr, if_pos ⟨rfl, rfl⟩]
    refine ⟨_, exec_wr_setMirror h0 row.toNat v v s, hostExec_setRow h0 hn hr0 hr7 v, hstored,
      fun c r hr' hne => ?others, ?readBack⟩
    case others =>
      rw [storeRow_mirrorAt hwf hr hr', if_neg (by omega)]
    case readBack =>
      obtain ⟨-, hgetRow, -⟩ := gettersAnswer
      rw [hgetRow _ chip row h0 (by simpa using hn) hr0 hr7]
      exact congrArg (fun b => Host.Outcome.next (State.setRet _ ⟨.none, some (.row b)⟩)) hstored

/-- Settles O46: the byte stored and sent is the row's with one bit set. -/
theorem setLedChangesOnePixel : Obligations.SetLedChangesOnePixel := by
  refine ⟨?carriedOut, fun s chip row col on hchip => ⟨_, validated_chip_outOfChain hchip _ _⟩,
    fun s chip row col on h0 hn hout => ⟨_, hostExec_setLed_coord_outOfRange h0 hn hout on⟩⟩
  case carriedOut =>
    intro s chip row col on h0 hn hr0 hr7 hk0 hk7 hwf
    have hr : row.toNat < 8 := by omega
    have hcall := hostExec_setLed h0 hn hr0 hr7 hk0 hk7 on
    rw [setPixel_eq_storeRow] at hcall
    refine ⟨_, _, exec_wr_setMirror h0 row.toNat _ _ s, hcall, ?pixelRow,
      fun k hk => getLsbD_setbit_pixel (by omega) hk _ on, fun c r hr' hne => ?others⟩
    case pixelRow =>
      rw [storeRow_mirrorAt hwf hr hr, if_pos ⟨rfl, rfl⟩]
    case others =>
      rw [storeRow_mirrorAt hwf hr hr', if_neg (by omega)]

end Sys2Proof.Machine
end

section
/-! A column of pixels as eight `setLed` calls in row order (43_host_ops.md R140). -/

namespace Sys2Proof.Machine

/-! ## Calls one after another -/

/-- Calls that pass their checks, whose actions keep the chip count and do not read the last report, are their actions
one after another; the last call's `Ok` is the report. -/
theorem callAll_map_eq_foldl {α : Type} (call : α → HostOp) (act : α → State → State) {n : Nat}
    (hcall : ∀ a s, s.n = n → hostExec (call a) s = .next ((act a s).setRet ⟨.none, none⟩))
    (hcount : ∀ a s, (act a s).n = s.n) (hret : ∀ a s r, act a (s.setRet r) = (act a s).setRet r)
    (a : α) (rest : List α) (s : State) (hs : s.n = n) :
    callAll ((a :: rest).map call) s =
      .next (((a :: rest).foldl (fun t b => act b t) s).setRet ⟨.none, none⟩) := by
  have hfold (bs : List α) (t : State) (r : Ret) :
      bs.foldl (fun t b => act b t) (t.setRet r) = (bs.foldl (fun t b => act b t) t).setRet r := by
    induction bs generalizing t with
    | nil => rfl
    | cons b bs ih => rw [List.foldl_cons, hret, ih, List.foldl_cons]
  induction rest generalizing a s with
  | nil => simp [callAll, hcall a s hs]
  | cons b rest ih =>
    have hnext : ((act a s).setRet ⟨.none, none⟩).n = n := (hcount a s).trans hs
    rw [List.map_cons, callAll, hcall a s hs]
    change callAll ((b :: rest).map call) ((act a s).setRet ⟨.none, none⟩) = _
    rw [ih b _ hnext, hfold]
    rfl

/-! ## What one pixel write changes -/

@[simp] theorem State.setRet_mirrorAt (s : State) (ret : Ret) (c r : Nat) :
    (s.setRet ret).mirrorAt c r = s.mirrorAt c r := rfl

@[simp] theorem setPixel_n (c r k : Nat) (on : Bool) (s : State) : (setPixel c r k on s).n = s.n := by
  rw [setPixel_eq_storeRow, storeRow_n]

@[simp] theorem setPixel_ca (c r k : Nat) (on : Bool) (s : State) : (setPixel c r k on s).ca = s.ca := by
  rw [setPixel_eq_storeRow, storeRow_ca]

theorem setPixel_setRet (c r k : Nat) (on : Bool) (s : State) (ret : Ret) :
    setPixel c r k on (s.setRet ret) = (setPixel c r k on s).setRet ret := by
  rw [setPixel_eq_storeRow, setPixel_eq_storeRow, storeRow_setRet, State.setRet_mirrorAt]

theorem setPixel_mirror_wf {s : State} (hwf : Memory.wf s.mirror = true) (c r k : Nat) (on : Bool) :
    Memory.wf (setPixel c r k on s).mirror = true := by
  rw [setPixel_eq_storeRow, storeRow_mirror]
  exact Memory.wf_write _ _ _ hwf

/-- Every pixel of the mirror after one of them is set to `on` (R138). -/
theorem setPixel_pixel {s : State} (hwf : Memory.wf s.mirror = true) {r k r' k' : Nat} (hr : r < 8) (hk : k < 8)
    (hr' : r' < 8) (hk' : k' < 8) (c c' : Nat) (on : Bool) :
    ((setPixel c r k on s).mirrorAt c' r').getLsbD (7 - k') =
      if c' = c ∧ r' = r ∧ k' = k then on else (s.mirrorAt c' r').getLsbD (7 - k') := by
  rw [setPixel_eq_storeRow, storeRow_mirrorAt hwf hr hr']
  by_cases hrow : c' = c ∧ r' = r
  · obtain ⟨rfl, rfl⟩ := hrow
    rw [if_pos ⟨rfl, rfl⟩, getLsbD_setbit_pixel hk hk']
    simp
  · rw [if_neg hrow, if_neg (by tauto)]

/-- The row opcodes are the digit registers (R137 to R142). -/
theorem isDigitOpcode_rowOpcode {r : Nat} (hr : r < 8) : isDigitOpcode (rowOpcode r) = true := by
  have hrows : ∀ r' < 8, isDigitOpcode (rowOpcode r') = true := by decide
  exact hrows r hr

/-- A row sent to a chip of the chain is one frame in common-cathode mode, eight in common-anode mode (R93). -/
theorem storeRow_appends_frames {s : State} {c r : Nat} (hc : c < s.n) (hr : r < 8) (stored sent : Byte) :
    ∃ frames, framesOf (storeRow c r stored sent s).bus = framesOf s.bus ++ frames ∧
      frames.length = if s.ca then 8 else 1 := by
  have hchip : chipOk s.n c = true := chipOk_eq_true (by omega) (by omega)
  rw [storeRow, registerWrite_eq, State.setMirror_n, State.setMirror_ca, hchip, if_pos rfl,
    isDigitOpcode_rowOpcode hr, Bool.and_true]
  cases s.ca with
  | true =>
    rw [if_pos rfl, State.afterRemap, remapEvents_eq_flatMap_remapFrames, framesOf_append_flatMap_bracketed]
    exact ⟨_, rfl, length_remapFrames ..⟩
  | false => exact ⟨_, framesOf_append_frameEvents .., rfl⟩

theorem setPixel_appends_frames {s : State} {c r : Nat} (hc : c < s.n) (hr : r < 8) (k : Nat) (on : Bool) :
    ∃ frames, framesOf (setPixel c r k on s).bus = framesOf s.bus ++ frames ∧
      frames.length = if s.ca then 8 else 1 := by
  rw [setPixel_eq_storeRow]
  exact storeRow_appends_frames hc hr _ _

/-! ## The pixels of a column -/

/-- The pixel writes of column `k` of chip `c` in the rows `rs`, one after another: bit `7 - row` of `value` to each
row. -/
def columnPixelsIn (c k : Nat) (value : Byte) (rs : List (Fin 8)) (s : State) : State :=
  rs.foldl (fun t r => setPixel c r.val k (bit value (7 - r.val)) t) s

theorem columnPixels_eq_columnPixelsIn_rows (c k : Nat) (value : Byte) (s : State) :
    columnPixels c k value s = columnPixelsIn c k value rows s := rfl

@[simp] theorem columnPixelsIn_nil (c k : Nat) (value : Byte) (s : State) : columnPixelsIn c k value [] s = s := rfl

@[simp] theorem columnPixelsIn_cons (c k : Nat) (value : Byte) (r : Fin 8) (rs : List (Fin 8)) (s : State) :
    columnPixelsIn c k value (r :: rs) s =
      columnPixelsIn c k value rs (setPixel c r.val k (bit value (7 - r.val)) s) := rfl

@[simp] theorem columnPixelsIn_n (c k : Nat) (value : Byte) (rs : List (Fin 8)) (s : State) :
    (columnPixelsIn c k value rs s).n = s.n := by
  induction rs generalizing s with
  | nil => rfl
  | cons r rs ih => rw [columnPixelsIn_cons, ih, setPixel_n]

@[simp] theorem columnPixelsIn_ca (c k : Nat) (value : Byte) (rs : List (Fin 8)) (s : State) :
    (columnPixelsIn c k value rs s).ca = s.ca := by
  induction rs generalizing s with
  | nil => rfl
  | cons r rs ih => rw [columnPixelsIn_cons, ih, setPixel_ca]

/-- The pixels of column `k` in the rows written take their bits of `value`, every other pixel stays (R140). -/
theorem columnPixelsIn_pixel {s : State} (hwf : Memory.wf s.mirror = true) {k k' : Nat} {r : Fin 8} (hk : k < 8)
    (hk' : k' < 8) (c c' : Nat) (value : Byte) (rs : List (Fin 8)) :
    ((columnPixelsIn c k value rs s).mirrorAt c' r).getLsbD (7 - k') =
      if c' = c ∧ k' = k ∧ r ∈ rs then value.getLsbD (7 - r) else (s.mirrorAt c' r).getLsbD (7 - k') := by
  induction rs generalizing s with
  | nil => simp
  | cons r₀ rs ih =>
    rw [columnPixelsIn_cons, ih (setPixel_mirror_wf hwf ..), setPixel_pixel hwf r₀.isLt hk r.isLt hk']
    by_cases hr : r = r₀
    · subst hr
      by_cases hpix : c' = c ∧ k' = k
      · simp [hpix, bit]
      · rw [if_neg (by tauto), if_neg (by tauto), if_neg (by tauto)]
    · have hval : r.val ≠ r₀.val := fun h => hr (Fin.ext h)
      simp [hr, hval]

/-- Each row written is a whole number of frames: one in common-cathode mode, eight in common-anode mode. -/
theorem columnPixelsIn_appends_frames {s : State} {c : Nat} (hc : c < s.n) (k : Nat) (value : Byte)
    (rs : List (Fin 8)) :
    ∃ frames, framesOf (columnPixelsIn c k value rs s).bus = framesOf s.bus ++ frames ∧
      frames.length = rs.length * if s.ca then 8 else 1 := by
  induction rs generalizing s with
  | nil => exact ⟨[], by simp⟩
  | cons r rs ih =>
    obtain ⟨first, hfirst, hfirstLen⟩ := setPixel_appends_frames hc r.isLt k (bit value (7 - r))
    obtain ⟨others, hothers, hothersLen⟩ := ih (s := setPixel c r k (bit value (7 - r)) s) (by simpa using hc)
    refine ⟨first ++ others, ?_, ?_⟩
    · rw [columnPixelsIn_cons, hothers, hfirst, List.append_assoc]
    · rw [List.length_append, hfirstLen, hothersLen, setPixel_ca, List.length_cons]
      ring

/-! ## `setColumn` -/

section
variable {s : State} {chip col : Int} (h0 : 0 ≤ chip) (hn : chip < s.n) (hk0 : 0 ≤ col) (hk7 : col ≤ 7)
include h0 hn hk0 hk7

theorem hostExec_setColumn (v : Byte) :
    hostExec (.setColumn chip col v) s = .next ((columnPixels chip.toNat col.toNat v s).setRet ⟨.none, none⟩) := by
  have hpass : firstFailure [addressCheck s.n chip, coordCheck col] = .none := by
    simp [firstFailure_addressCheck_inChain h0 hn, coordCheck, coordOk_eq_true hk0 hk7]
  exact validated_accepted hpass _ s

/-- The eight `setLed` calls of a column, rows ascending, are its pixel writes (R140). -/
theorem callAll_setLed_column (v : Byte) :
    callAll (rows.map fun r => .setLed chip r.val col (bit v (7 - r.val))) s =
      .next ((columnPixels chip.toNat col.toNat v s).setRet ⟨.none, none⟩) := by
  refine callAll_map_eq_foldl (n := s.n) (fun r : Fin 8 => .setLed chip r.val col (bit v (7 - r.val)))
    (fun r => setPixel chip.toNat r.val col.toNat (bit v (7 - r.val))) (fun r t ht => ?_)
    (fun _ _ => setPixel_n ..) (fun _ _ _ => setPixel_setRet ..) 0 [1, 2, 3, 4, 5, 6, 7] s rfl
  exact hostExec_setLed h0 (ht ▸ hn) (by omega) (by omega) hk0 hk7 _

end

/-- Settles O48: the column is its eight pixel writes, and so is the run of `setLed` calls; every row is in it. -/
theorem setColumnIsEightSetLeds : Obligations.SetColumnIsEightSetLeds := by
  refine ⟨?carriedOut, fun s chip col v hchip => ⟨_, validated_chip_outOfChain hchip _ _⟩,
    fun s chip col v h0 hn hcol => ⟨_, validated_coord_outOfRange h0 hn hcol _ _⟩⟩
  case carriedOut =>
    intro s chip col v h0 hn hk0 hk7 hwf
    obtain ⟨frames, hframes, hlen⟩ :=
      columnPixelsIn_appends_frames (s := s) (c := chip.toNat) (by omega) col.toNat v rows
    have hcalls : (rows.map fun r => HostOp.setLed chip r.val col (bit v (7 - r.val))) =
      [.setLed chip 0 col (v.getLsbD 7), .setLed chip 1 col (v.getLsbD 6), .setLed chip 2 col (v.getLsbD 5),
        .setLed chip 3 col (v.getLsbD 4), .setLed chip 4 col (v.getLsbD 3), .setLed chip 5 col (v.getLsbD 2),
        .setLed chip 6 col (v.getLsbD 1), .setLed chip 7 col (v.getLsbD 0)] := rfl
    refine ⟨_, frames, hostExec_setColumn h0 hn hk0 hk7 v, hcalls ▸ callAll_setLed_column h0 hn hk0 hk7 v, ?frames,
      ?length, rfl, ?wiring, ?count, fun c r k hr hk => ?pixels⟩
    case frames =>
      rw [State.setRet_bus, columnPixels_eq_columnPixelsIn_rows, hframes]
    case wiring => rw [State.setRet_ca, columnPixels_eq_columnPixelsIn_rows, columnPixelsIn_ca]
    case count => rw [State.setRet_n, columnPixels_eq_columnPixelsIn_rows, columnPixelsIn_n]
    case length =>
      rw [hlen]
      cases s.ca <;> rfl
    case pixels =>
      have hrows : ∀ r : Fin 8, r ∈ rows := by decide
      have hpixel := columnPixelsIn_pixel hwf (k := col.toNat) (r := ⟨r, hr⟩) (by omega) hk chip.toNat c v rows
      rw [State.setRet_mirrorAt, columnPixels_eq_columnPixelsIn_rows]
      simpa only [hrows, and_true] using hpixel

end Sys2Proof.Machine
end

section
/-! A command or an operation is carried out or dropped, and the drop writes `REJ` and the report only
(60_exceptions.md R160, R161). -/

namespace Sys2Proof.Machine

/-! ## Commands -/

@[simp] theorem xmit_rej (c : Nat) (op d : Byte) (s : State) : (xmit c op d s).rej = s.rej := by
  rw [xmit_eq]

@[simp] theorem remap_rej (c w : Nat) (d : Byte) (s : State) : (remap c w d s).rej = s.rej := by
  rw [remap_eq]

section
variable (addr : Int) (op d : Byte) (s : State)

/-- A checked write whose action does not write `REJ` leaves it at 0, or is the drop. -/
theorem checkedWrite_rej_or_dropped {act : Nat → State → State} (hact : ∀ c u, (act c u).rej = u.rej) :
    (checkedWrite addr act s).rej = .none ∨ checkedWrite addr act s = s.setRej .invalidAddress := by
  obtain ⟨-, hdone⟩ | ⟨-, hdropped⟩ := checkedWrite_cases addr act s
  · left
    rw [hdone, hact, State.setRej_rej]
  · exact .inr hdropped

theorem registerWrite_rej_or_dropped :
    (registerWrite addr op d s).rej = .none ∨ registerWrite addr op d s = s.setRej .invalidAddress :=
  checkedWrite_rej_or_dropped addr s fun c u => by split <;> simp

theorem digitWrite_rej_or_dropped (w : Nat) :
    (digitWrite op w addr d s).rej = .none ∨ digitWrite op w addr d s = s.setRej .invalidAddress :=
  checkedWrite_rej_or_dropped addr s fun c u => by split <;> simp

theorem passthroughWrite_rej_or_dropped :
    (passthroughWrite op addr d s).rej = .none ∨ passthroughWrite op addr d s = s.setRej .invalidAddress :=
  checkedWrite_rej_or_dropped addr s fun c u => xmit_rej c op d u

end

/-- A command leaves `REJ` at 0 or is dropped for its address; `XMIT` is no command and does not write `REJ` (R110,
R160, log 8). -/
theorem exec_rej_or_dropped {i : Instr} {s t : State} (h : exec i s = .next t) (hcmd : ∀ c op d, i ≠ .xmit c op d) :
    t.rej = .none ∨ t = s.setRej .invalidAddress := by
  cases i with
  | xmit c op d => exact absurd rfl (hcmd c op d)
  | mode m => cases h; exact .inl rfl
  | wr c op d | undefined c op d => cases h; exact registerWrite_rej_or_dropped ..
  | digit0 c d | digit1 c d | digit2 c d | digit3 c d | digit4 c d | digit5 c d | digit6 c d | digit7 c d =>
    cases h; exact digitWrite_rej_or_dropped ..
  | noop c d | decodeMode c d | intensity c d | scanLimit c d | shutdown c d | displayTest c d =>
    cases h; exact passthroughWrite_rej_or_dropped ..

/-! ## Public operations -/

/-- An operation with checks reports `Ok`, or is dropped with the kind it reports (R153, R161). -/
theorem validated_ok_or_dropped {checks : List (Bool × RejKind)} {act : State → State} {s t : State}
    (h : validated checks act s = .next t) :
    (∃ v, t.ret = some ⟨.none, v⟩) ∨ ∃ kind, kind ≠ .none ∧ t = (s.setRej kind).setRet ⟨kind, none⟩ := by
  obtain ⟨-, hdone⟩ | ⟨hfail, hdropped⟩ := validated_cases checks act s
  · cases hdone.symm.trans h
    exact .inl ⟨_, rfl⟩
  · cases hdropped.symm.trans h
    exact .inr ⟨_, hfail, rfl⟩

theorem hostGetRow_ok {chip row : Int} {s t : State} (h : hostGetRow chip row s = .next t) :
    ∃ v, t.ret = some ⟨.none, v⟩ := by
  unfold hostGetRow at h
  split at h <;> cases h
  exact ⟨_, rfl⟩

theorem hostGetLed_ok {chip row col : Int} {s t : State} (h : hostGetLed chip row col s = .next t) :
    ∃ v, t.ret = some ⟨.none, v⟩ := by
  unfold hostGetLed at h
  split at h <;> cases h
  exact ⟨_, rfl⟩

/-- A public operation that answers reports `Ok`, or is dropped with the kind it reports; those without checks never
drop (R153, R161). -/
theorem hostExec_ok_or_dropped {op : HostOp} {s t : State} (h : hostExec op s = .next t) :
    (∃ v, t.ret = some ⟨.none, v⟩) ∨ ∃ kind, kind ≠ .none ∧ t = (s.setRej kind).setRet ⟨kind, none⟩ := by
  cases op with
  | construct | getChipCount | setCommonAnode => cases h; exact .inl ⟨_, rfl⟩
  | getRow => exact .inl (hostGetRow_ok h)
  | getLed => exact .inl (hostGetLed_ok h)
  | shutdown | setScanLimit | setIntensity | clearDisplay | setLed | setRow | setColumn | setDigit | setChar =>
    exact validated_ok_or_dropped h

/-! ## The obligation -/

/-- Settles O36: what is rejected was not carried out, so it was the drop, which writes none of these fields. -/
theorem rejectionChangesNothing : Obligations.RejectionChangesNothing := by
  refine ⟨fun i s t h hcmd hrej => ?command, fun op s t kind h hret hkind => ?operation⟩
  case command =>
    obtain hnone | rfl := exec_rej_or_dropped h hcmd
    · exact absurd hnone hrej
    · exact ⟨rfl, rfl, rfl, rfl, rfl, rfl, rfl, rfl, rfl⟩
  case operation =>
    obtain ⟨v, hok⟩ | ⟨-, -, rfl⟩ := hostExec_ok_or_dropped h
    · cases hok.symm.trans hret
      exact absurd rfl hkind
    · exact ⟨rfl, rfl, rfl, rfl, rfl, rfl, rfl, rfl⟩

end Sys2Proof.Machine
end

section
/-! A pixel set twice (70_reset_and_hazards.md R187): the second call stores the same byte and sends the same events. -/

namespace Sys2Proof.Machine

/-! ## The byte and the accumulators of a repeated write -/

theorem setbit_setbit (v : Byte) (i : Nat) (b : Bool) : setbit (setbit v i b) i b = setbit v i b := by
  ext j hj
  cases b <;> cases h : (oneBit i)[j] <;> simp [setbit, h]

/-- The remap takes its bits from the data byte alone, so a second one finds them already there (R96). -/
theorem accAfter_accAfter (w : Nat) (d : Byte) (acc : Vector Byte 8) :
    accAfter w d (accAfter w d acc) = accAfter w d acc := by
  ext1 i hi
  simp only [accAfter_getElem, setbit_setbit]

/-! ## The same write twice -/

/-- A frame begins with its select edge (R113). -/
theorem frameEvents_ne_nil (n c : Nat) (op d : Byte) : frameEvents n c op d ≠ [] :=
  List.cons_ne_nil _ _

/-- A remap sends eight frames (R102). -/
theorem remapEvents_ne_nil (n c : Nat) (acc : Vector Byte 8) : remapEvents n c acc ≠ [] :=
  List.ne_nil_of_length_pos (by rw [length_remapEvents]; omega)

/-- A register write carried out in `s`, and again in a state `u` that has its chain, its mode and the accumulators it
left: both append the same events, and the second leaves the accumulators as they are (R41). -/
theorem registerWrite_repeated {s u : State} {addr : Int} {op d : Byte} (h0 : 0 ≤ addr) (hn : addr < s.n)
    (hun : u.n = s.n) (huca : u.ca = s.ca) (huacc : u.acc = (registerWrite addr op d s).acc) :
    ∃ events, events ≠ [] ∧ (registerWrite addr op d s).bus = s.bus ++ events ∧
      (registerWrite addr op d u).bus = u.bus ++ events ∧ (registerWrite addr op d u).acc = u.acc := by
  rw [registerWrite_eq, chipOk_eq_true h0 hn, if_pos rfl] at huacc ⊢
  rw [registerWrite_eq, hun, huca, chipOk_eq_true h0 hn, if_pos rfl]
  cases hremap : s.ca && isDigitOpcode op with
  | true =>
    rw [hremap, if_pos rfl] at huacc
    have hacc : accAfter (writeIndex op) d u.acc = u.acc := by
      rw [huacc]
      exact accAfter_accAfter ..
    refine ⟨_, remapEvents_ne_nil _ _ _, rfl, ?again, hacc⟩
    case again =>
      simp only [if_true, State.afterRemap, hacc, hun]
      rw [huacc]
      rfl
  | false =>
    exact ⟨_, frameEvents_ne_nil _ _ _ _, rfl, hun ▸ rfl, rfl⟩

/-- Storing and sending a row twice sends the same events each time (R139). -/
theorem storeRow_repeated {s : State} {c : Nat} (hc : c < s.n) (r : Nat) (stored sent : Byte) :
    ∃ events, events ≠ [] ∧ (storeRow c r stored sent s).bus = s.bus ++ events ∧
      (storeRow c r stored sent (storeRow c r stored sent s)).bus = (storeRow c r stored sent s).bus ++ events ∧
      (storeRow c r stored sent (storeRow c r stored sent s)).acc = (storeRow c r stored sent s).acc :=
  registerWrite_repeated (s := s.setMirror c r stored) (u := (storeRow c r stored sent s).setMirror c r stored)
    (Int.natCast_nonneg c) (Int.ofNat_lt.2 hc) (storeRow_n ..) (storeRow_ca ..) rfl

section
variable {s : State} (hwf : Memory.wf s.mirror = true) {r : Nat} (hr : r < 8)
include hwf hr

/-- A row stored twice is in the mirror as it is after once (R32). -/
theorem storeRow_storeRow_mirrorAt {r' : Nat} (hr' : r' < 8) (c c' : Nat) (stored sent : Byte) :
    (storeRow c r stored sent (storeRow c r stored sent s)).mirrorAt c' r' =
      (storeRow c r stored sent s).mirrorAt c' r' := by
  have hwf' : Memory.wf (storeRow c r stored sent s).mirror = true := by
    rw [storeRow_mirror]
    exact Memory.wf_write _ _ _ hwf
  simp only [storeRow_mirrorAt hwf' hr hr', storeRow_mirrorAt hwf hr hr']
  split_ifs <;> rfl

/-- Setting or clearing a pixel twice stores and sends one row byte twice (R138). -/
theorem setPixel_setPixel (c k : Nat) (on : Bool) :
    ∃ v, setPixel c r k on s = storeRow c r v v s ∧
      setPixel c r k on (setPixel c r k on s) = storeRow c r v v (storeRow c r v v s) := by
  refine ⟨_, setPixel_eq_storeRow c r k on s, ?_⟩
  rw [setPixel_eq_storeRow c r k on (setPixel c r k on s), setPixel_eq_storeRow c r k on s,
    storeRow_mirrorAt hwf hr hr, if_pos ⟨rfl, rfl⟩, setbit_setbit]

end

/-! ## The obligation -/

/-- Settles O47: both calls store and send one row byte, and a row stored and sent twice sends the same events. -/
theorem setLedTwiceStillTransmits : Obligations.SetLedTwiceStillTransmits := by
  intro s chip row col h0 hn hr0 hr7 hk0 hk7 hwf
  have hr : row.toNat < 8 := by omega
  obtain ⟨v, honce, htwice⟩ := setPixel_setPixel hwf hr chip.toNat col.toNat true
  obtain ⟨events, hne, hbus, hbus', hacc⟩ := storeRow_repeated (s := s) (c := chip.toNat) (by omega) row.toNat v v
  refine ⟨_, _, events, hostExec_setLed h0 hn hr0 hr7 hk0 hk7 true,
    hostExec_setLed h0 (by simpa using hn) hr0 hr7 hk0 hk7 true, ?_⟩
  rw [setPixel_setRet, htwice, honce]
  exact ⟨fun c r hr' => storeRow_storeRow_mirrorAt hwf hr hr' .., hbus, hbus', hne, hacc⟩

end Sys2Proof.Machine
end

section
/-! The decoder and the encoder are inverse to each other, and the fields of a command word by match and mask
(30_encoding.md sections 2 and 3). -/

namespace Sys2Proof.Machine

/-! ## The fields of an encoded instruction -/

/-- An address of the format is what its ADDR field reads as (R52, D4). -/
theorem signedAddr_addrBits {a : Int} (ha : addrFits a = true) : signedAddr (addrBits a) = a := by
  obtain ⟨hlow, hhigh⟩ := of_decide_eq_true ha
  exact BitVec.toInt_ofInt_eq_self (by decide) hlow (by norm_num; omega)

/-- The ADDR field of the address it reads as. -/
theorem addrBits_signedAddr (a : BitVec 8) : addrBits (signedAddr a) = a := BitVec.ofInt_toInt

theorem addrFits_signedAddr (a : BitVec 8) : addrFits (signedAddr a) = true := by
  have hlow : -128 ≤ a.toInt := BitVec.le_toInt a
  have hhigh : a.toInt < 128 := BitVec.toInt_lt
  exact decide_eq_true ⟨hlow, by rw [signedAddr]; omega⟩

theorem rsvField_encodeWr (addr : Int) (op d : Byte) : rsvField (encodeWr addr op d) = 0#4 := by
  rw [rsvField, encodeWr, BitVec.extractLsb'_append_eq_of_le (by decide),
    BitVec.extractLsb'_append_eq_of_le (by decide), BitVec.extractLsb'_append_eq_of_le (by decide)]
  rfl

theorem addrField_encodeWr (addr : Int) (op d : Byte) : addrField (encodeWr addr op d) = addrBits addr := by
  rw [addrField, encodeWr, BitVec.extractLsb'_append_eq_of_le (by decide),
    BitVec.extractLsb'_append_eq_of_le (by decide)]
  exact BitVec.extractLsb'_append_eq_right

theorem dataField_encodeWr (addr : Int) (op d : Byte) : dataField (encodeWr addr op d) = d :=
  BitVec.extractLsb'_append_eq_right

theorem pairData_append (op d : Byte) : pairData (op ++ d) = d :=
  BitVec.extractLsb'_append_eq_right

/-- A pair decodes to the register its opcode names, at the address encoded beside it (R55). -/
theorem decode_encodePair {c : Int} (hc : addrFits c = true) (op d : Byte) :
    decode (encodePair c op d) = .ok (registerWriteInstr c op d) := by
  rw [encodePair, decode, signedAddr_addrBits hc, Laws.pairOpcode_encode, pairData_append]

/-- An opcode with no register gives the row of the undefined ones (R85). -/
theorem registerWriteInstr_of_isUndefinedOpcode {op : Byte} (hop : isUndefinedOpcode op = true) (c : Int) (d : Byte) :
    registerWriteInstr c op d = .undefined c op d := by
  have hne (k : Byte) (hk : isUndefinedOpcode k = false) : op ≠ k := by
    rintro rfl
    exact absurd hop (by rw [hk]; decide)
  simp only [registerWriteInstr, hne 0x00#8 rfl, hne 0x01#8 rfl, hne 0x02#8 rfl, hne 0x03#8 rfl, hne 0x04#8 rfl,
    hne 0x05#8 rfl, hne 0x06#8 rfl, hne 0x07#8 rfl, hne 0x08#8 rfl, hne 0x09#8 rfl, hne 0x0A#8 rfl, hne 0x0B#8 rfl,
    hne 0x0C#8 rfl, hne 0x0F#8 rfl, if_false]

/-- Settles O2: a `WR` word gives back its fields, and a pair the register its opcode names. -/
theorem decodeOfEncode : Obligations.DecodeOfEncode := by
  intro i hwf
  cases i with
  | wr addr op d =>
    change decodeWord (encodeWr addr op d) = _
    rw [decodeWord, if_pos (Laws.kindField_encodeWr ..), if_pos (rsvField_encodeWr ..), addrField_encodeWr,
      signedAddr_addrBits hwf, Laws.opcodeField_encodeWr, dataField_encodeWr]
  | mode m => cases m <;> rfl
  | xmit c op d => rfl
  | undefined c op d =>
    obtain ⟨hc, hop⟩ := Bool.and_eq_true_iff.1 hwf
    rw [encode, decode_encodePair hc, registerWriteInstr_of_isUndefinedOpcode hop]
  | noop c d | digit0 c d | digit1 c d | digit2 c d | digit3 c d | digit4 c d | digit5 c d | digit6 c d | digit7 c d
  | decodeMode c d | intensity c d | scanLimit c d | shutdown c d | displayTest c d => exact decode_encodePair hwf _ d

/-! ## What decodes is well formed and encodes to the same word -/

/-- An opcode has a register, at 0..12 or 15, or is an undefined one (R57). -/
theorem opcode_cases (op : Byte) :
    op ∈ [0x00#8, 0x01#8, 0x02#8, 0x03#8, 0x04#8, 0x05#8, 0x06#8, 0x07#8, 0x08#8, 0x09#8, 0x0A#8, 0x0B#8, 0x0C#8,
      0x0F#8] ∨ isUndefinedOpcode op = true := by
  simp only [isUndefinedOpcode, List.mem_cons, List.not_mem_nil, ← BitVec.toNat_inj, decide_eq_true_eq,
    BitVec.toNat_ofNat, or_false]
  omega

/-- Every opcode names a row its format carries (R57, R59), whose pair carries that opcode (R55). -/
theorem registerWriteInstr_encoding (c : Int) (op d : Byte) :
    wellFormed (registerWriteInstr c op d) = addrFits c ∧ encode (registerWriteInstr c op d) = encodePair c op d := by
  obtain hdefined | hop := opcode_cases op
  · fin_cases hdefined <;> exact ⟨rfl, rfl⟩
  · rw [registerWriteInstr_of_isUndefinedOpcode hop, wellFormed, hop, Bool.and_true]
    exact ⟨rfl, rfl⟩

theorem append_pairOpcode_pairData (w : BitVec 16) : pairOpcode w ++ pairData w = w :=
  (BitVec.extractLsb'_append_extractLsb'_eq_extractLsb' rfl).trans BitVec.extractLsb'_eq_self

theorem append_fields_wr (w : BitVec 32) :
    w.extractLsb' 24 8 ++ addrField w ++ opcodeField w ++ dataField w = w := by
  have h24 : w.extractLsb' 24 8 ++ addrField w = w.extractLsb' 16 16 :=
    BitVec.extractLsb'_append_extractLsb'_eq_extractLsb' rfl
  have h16 : w.extractLsb' 16 16 ++ opcodeField w = w.extractLsb' 8 24 :=
    BitVec.extractLsb'_append_extractLsb'_eq_extractLsb' rfl
  rw [h24, h16]
  exact (BitVec.extractLsb'_append_extractLsb'_eq_extractLsb' rfl).trans BitVec.extractLsb'_eq_self

theorem append_fields_mode (w : BitVec 32) : kindField w ++ modeZeroField w ++ w.extractLsb' 0 1 = w := by
  have hhigh : kindField w ++ modeZeroField w = w.extractLsb' 1 31 :=
    BitVec.extractLsb'_append_extractLsb'_eq_extractLsb' rfl
  rw [hhigh]
  exact (BitVec.extractLsb'_append_extractLsb'_eq_extractLsb' rfl).trans BitVec.extractLsb'_eq_self

/-- A word whose fields KIND and RSV are zero is the `WR` word of its other fields (R52). -/
theorem encodeWr_fields {w : BitVec 32} (hkind : kindField w = 0#4) (hrsv : rsvField w = 0#4) :
    encodeWr (signedAddr (addrField w)) (opcodeField w) (dataField w) = w := by
  have htop : kindField w ++ rsvField w = w.extractLsb' 24 8 :=
    BitVec.extractLsb'_append_extractLsb'_eq_extractLsb' rfl
  have hzero : w.extractLsb' 24 8 = 0x00#8 := by
    rw [← htop, hkind, hrsv]
    rfl
  rw [encodeWr, addrBits_signedAddr, ← hzero]
  exact append_fields_wr w

/-- A word whose KIND is 1 and whose bits 27:1 are zero is the `MODE` word of its bit 0 (R53). -/
theorem encodeMode_modeBit {w : BitVec 32} (hkind : kindField w = 1#4) (hzero : modeZeroField w = 0#27) :
    encodeMode (modeBit w) = w := by
  have hbit : w.extractLsb' 0 1 = BitVec.ofBool (modeBit w) := by
    ext i hi
    simp [modeBit, show i = 0 by omega]
  have hw : kindField w ++ modeZeroField w ++ BitVec.ofBool (modeBit w) = w := hbit ▸ append_fields_mode w
  rw [hkind, hzero] at hw
  cases hm : modeBit w <;> rw [hm] at hw <;> exact hw

/-- A command word is a `WR` word, a `MODE` word or reserved (R52, R53, R54). -/
theorem decodeWord_cases (w : BitVec 32) :
    (kindField w = 0#4 ∧ rsvField w = 0#4 ∧
        decodeWord w = .ok (.wr (signedAddr (addrField w)) (opcodeField w) (dataField w))) ∨
      (kindField w = 1#4 ∧ modeZeroField w = 0#27 ∧ decodeWord w = .ok (.mode (modeBit w))) ∨
      (¬(kindField w = 0#4 ∧ rsvField w = 0#4) ∧ ¬(kindField w = 1#4 ∧ modeZeroField w = 0#27) ∧
        ∃ why, decodeWord w = .error why) := by
  unfold decodeWord
  split_ifs with hwr hrsv hmode hzero
  · exact .inl ⟨hwr, hrsv, rfl⟩
  · exact .inr (.inr ⟨fun h => hrsv h.2, fun h => by simp [hwr] at h, _, rfl⟩)
  · exact .inr (.inl ⟨hmode, hzero, rfl⟩)
  · exact .inr (.inr ⟨fun h => hwr h.1, fun h => hzero h.2, _, rfl⟩)
  · exact .inr (.inr ⟨fun h => hwr h.1, fun h => hmode h.1, _, rfl⟩)

/-- Settles O3: a word is rebuilt from the fields it was read by, a pair from its opcode, data and address. -/
theorem encodeOfDecode : Obligations.EncodeOfDecode := by
  intro e i h
  cases e with
  | word w =>
    change decodeWord w = _ at h
    obtain ⟨hkind, hrsv, hw⟩ | ⟨hkind, hzero, hw⟩ | ⟨-, -, why, hw⟩ := decodeWord_cases w
    · cases hw.symm.trans h
      exact ⟨addrFits_signedAddr _, congrArg _ (encodeWr_fields hkind hrsv)⟩
    · cases hw.symm.trans h
      exact ⟨rfl, congrArg _ (encodeMode_modeBit hkind hzero)⟩
    · cases hw.symm.trans h
  | pair a w =>
    cases h
    obtain ⟨hwf, hencode⟩ := registerWriteInstr_encoding (signedAddr a) (pairOpcode w) (pairData w)
    rw [hwf, hencode, encodePair, addrBits_signedAddr, append_pairOpcode_pairData]
    exact ⟨addrFits_signedAddr a, rfl⟩
  | request c op d =>
    cases h
    exact ⟨rfl, rfl⟩

/-! ## The command words by match and mask -/

/-- Two words agree on a field when they agree on its bits. -/
theorem extractLsb'_eq_iff (w v : BitVec 32) (start len : Nat) :
    w.extractLsb' start len = v.extractLsb' start len ↔
      ∀ i, start ≤ i → i < start + len → w.getLsbD i = v.getLsbD i := by
  constructor
  · intro h i hlow hhigh
    have hbit := congrArg (BitVec.getLsbD · (i - start)) h
    simpa [hlow, show i - start < len by omega] using hbit
  · intro h
    ext i hi
    simpa using h (start + i) (by omega) (by omega)

/-- Two words agree under a mask that keeps the bits from `start` up when they agree on those bits. -/
theorem and_mask_eq_iff {mask : BitVec 32} {start : Nat} (hmask : ∀ i < 32, mask.getLsbD i = decide (start ≤ i))
    (w v : BitVec 32) (hv : v &&& mask = v) :
    w &&& mask = v ↔ ∀ i, start ≤ i → i < 32 → w.getLsbD i = v.getLsbD i := by
  constructor
  · rintro rfl i hlow hi
    simp [hmask i hi, hlow]
  · intro h
    rw [← hv]
    ext i hi
    by_cases hlow : start ≤ i
    · simp [h i hlow hi, ← BitVec.getLsbD_eq_getElem]
    · simp [← BitVec.getLsbD_eq_getElem, hmask i hi, hlow]

/-- Under such a mask two words agree when they agree on KIND and on the bits below it that the mask keeps. -/
theorem and_mask_eq_iff_fields {mask : BitVec 32} {start : Nat} (hstart : start ≤ 28)
    (hmask : ∀ i < 32, mask.getLsbD i = decide (start ≤ i)) (w v : BitVec 32) (hv : v &&& mask = v) :
    w &&& mask = v ↔
      kindField w = kindField v ∧ w.extractLsb' start (28 - start) = v.extractLsb' start (28 - start) := by
  rw [and_mask_eq_iff hmask w v hv, kindField, kindField, extractLsb'_eq_iff, extractLsb'_eq_iff]
  refine ⟨fun h => ⟨fun i _ _ => h i (by omega) (by omega), fun i _ _ => h i (by omega) (by omega)⟩,
    fun ⟨hkind, hbelow⟩ i hlow hi => ?_⟩
  by_cases hsplit : 28 ≤ i
  · exact hkind i hsplit hi
  · exact hbelow i hlow (by omega)

/-- The match and mask of `WR` are its fields KIND and RSV (R52). -/
theorem and_wrMask_eq_iff (w : BitVec 32) :
    w &&& 0xFF000000#32 = 0x00000000#32 ↔ kindField w = 0#4 ∧ rsvField w = 0#4 :=
  and_mask_eq_iff_fields (start := 24) (by decide) (by decide) w _ rfl

/-- The match and mask of `MODE` are its field KIND and its bits 27:1 (R53). -/
theorem and_modeMask_eq_iff (w : BitVec 32) :
    w &&& 0xFFFFFFFE#32 = 0x10000000#32 ↔ kindField w = 1#4 ∧ modeZeroField w = 0#27 :=
  and_mask_eq_iff_fields (start := 1) (by decide) (by decide) w _ rfl

/-- Settles O4: each match and mask says what the decoder's fields say, and the three cases exclude each other. -/
theorem commandWordsByMask : Obligations.CommandWordsByMask := by
  intro w
  change (_ ↔ decodeWord w = .ok (.wr (signedAddr (addrField w)) (opcodeField w) (dataField w))) ∧
    (_ ↔ decodeWord w = .ok (.mode (modeBit w))) ∧ (_ ↔ ∃ why, decodeWord w = .error why)
  simp only [ne_eq, and_wrMask_eq_iff, and_modeMask_eq_iff]
  obtain ⟨hkind, hrsv, hw⟩ | ⟨hkind, hzero, hw⟩ | ⟨hnwr, hnmode, why, hw⟩ := decodeWord_cases w
  · simp [hw, hkind, hrsv]
  · simp [hw, hkind, hzero]
  · simp [hw, hnwr, hnmode]

/-- Settles O1: each decodes by evaluation. -/
theorem writtenOutWordsDecode : Obligations.WrittenOutWordsDecode :=
  ⟨rfl, rfl, rfl, rfl, rfl, rfl, rfl⟩

end Sys2Proof.Machine
end

section
/-! One step of the block and the state after reset (10_state.md R15, R19, R24, R25; 30_encoding.md R54). -/

namespace Sys2Proof.Machine

/-! ## The step -/

theorem step_of_pending_nil {s : State} (hp : s.pending = []) : step s = .next s := by
  rw [step, takeNext, hp]

/-- What is presented to a block that is ready is carried out, with the item taken and `BUSY` set around it (R19). -/
theorem step_of_idle {s : State} {p : Presented} {rest : List Presented} (hidle : s.busy = false)
    (hp : s.pending = p :: rest) : step s = completed (runPresented p (s.accept rest)) := by
  simp [step, takeNext, hp, hidle]

theorem step_of_busy {s : State} {p : Presented} {rest : List Presented} (hbusy : s.busy = true)
    (hp : s.pending = p :: rest) : step s = .fault .presentedWhileBusy := by
  simp [step, takeNext, hp, hbusy]

theorem runPresented_of_decode {e : Encoded} {i : Instr} (hdecode : decode e = .ok i) (s : State) :
    runPresented (.command e) s = exec i s := by
  rw [runPresented, hdecode]

theorem runPresented_of_reserved {e : Encoded} {why : DecodeError} (hdecode : decode e = .error why) (s : State) :
    runPresented (.command e) s = .next (reservedWord s) := by
  rw [runPresented, hdecode]

/-- Settles O5: the item decodes to `i`, so what is carried out is `exec i`. -/
theorem stepRunsDecodedInstruction : Obligations.StepRunsDecodedInstruction := by
  intro s e rest i hidle hp hdecode
  rw [step_of_idle hidle hp, runPresented_of_decode hdecode]
  rfl

/-- Settles O6: what is carried out is the operation. -/
theorem stepRunsHostOperation : Obligations.StepRunsHostOperation := by
  intro s op rest hidle hp
  rw [step_of_idle hidle hp]
  rfl

/-- Settles O7: a word that matches neither pattern is reserved, and the block is ready again, as it was before. -/
theorem reservedWordWritesOnlyRej : Obligations.ReservedWordWritesOnlyRej := by
  intro s w rest hidle hp hwr hmode
  obtain ⟨-, -, hreserved⟩ := commandWordsByMask w
  obtain ⟨why, hdecode⟩ := hreserved.1 ⟨hwr, hmode⟩
  have hready : (reservedWord (s.accept rest)).ready = { s with pending := rest, rej := .invalidValue } := by
    rw [hidle]
    rfl
  rw [step_of_idle hidle hp, runPresented_of_reserved hdecode]
  exact ⟨congrArg _ hready, rfl⟩

/-- Settles O8: the block waits with nothing presented, and stops by name where `BUSY` is set. -/
theorem stepWaitsAndGuardsBusy : Obligations.StepWaitsAndGuardsBusy :=
  ⟨fun _ hp => step_of_pending_nil hp, fun _ _ _ hbusy hp => step_of_busy hbusy hp⟩

/-! ## Reset -/

/-- Settles O9: each field has its reset value by definition, and an empty mirror lists no byte. -/
theorem resetState : Obligations.ResetState :=
  ⟨fun _ _ => rfl, fun _ _ _ _ => rfl, rfl⟩

theorem clampCount_of_inRange {ncfg : Int} (h1 : 1 ≤ ncfg) (h8 : ncfg ≤ 8) : clampCount ncfg = ncfg.toNat :=
  if_pos ⟨h1, h8⟩

theorem clampCount_of_outOfRange {ncfg : Int} (hout : ncfg < 1 ∨ 8 < ncfg) : clampCount ncfg = 8 :=
  if_neg (by omega)

/-- A chain has 1 to 8 chips (R6). -/
theorem clampCount_bounds (ncfg : Int) : 1 ≤ clampCount ncfg ∧ clampCount ncfg ≤ 8 := by
  by_cases h : 1 ≤ ncfg ∧ ncfg ≤ 8
  · rw [clampCount_of_inRange h.1 h.2]
    omega
  · rw [clampCount_of_outOfRange (by omega)]
    decide

/-- Settles O10: the chip count after reset is the clamp of `NCFG`. -/
theorem chipCountClamp : Obligations.ChipCountClamp := by
  intro ncfg accInit
  have hcount : (State.resetWith ncfg accInit).n = clampCount ncfg := rfl
  rw [hcount]
  refine ⟨fun h1 h8 => ?_, clampCount_of_outOfRange, clampCount_bounds ncfg⟩
  rw [clampCount_of_inRange h1 h8]
  omega

end Sys2Proof.Machine
end

section
/-! `XMIT` carried out or refused, and its frame on the wire and through a chain of shift registers
(42_serializer.md section 1). -/

namespace Sys2Proof.Machine

/-- Settles O11: a chip of the chain is a chip number below `N`, for which the request is carried out. -/
theorem xmitCompletes : Obligations.XmitCompletes := by
  intro s c op d h0 hn
  obtain ⟨k, rfl⟩ := Int.eq_ofNat_of_zero_le h0
  exact exec_xmit_of_lt (Int.ofNat_lt.1 hn) op d

theorem exec_xmit_outOfChain {s : State} {c : Int} (hc : c < 0 ∨ (s.n : Int) ≤ c) (op d : Byte) :
    exec (.xmit c op d) s = .refused .xmitChipRange :=
  if_neg (by rw [chipOk_eq_false hc]; exact Bool.false_ne_true)

/-- Settles O12: outside the chain the request fails its check. -/
theorem xmitOutsideRefused : Obligations.XmitOutsideRefused := fun _ _ op d hc => exec_xmit_outOfChain hc op d

/-! ## Where the bytes stand on the wire -/

theorem wireFrame_getElem? {n i : Nat} (hi : i < 2 * n) (c : Nat) (op d : Byte) :
    (wireFrame n c op d)[i]? = (frameBuffer n c op d)[2 * n - 1 - i]? := by
  have hlen : (frameBuffer n c op d).length = 2 * n := by simp [frameBuffer]
  rw [← reverse_frameBuffer, List.getElem?_reverse (by omega), hlen]

/-- The opcode byte of chip `k`'s pair on the wire (R114). -/
theorem wireFrame_getElem?_opcode {n k : Nat} (hk : k < n) (c : Nat) (op d : Byte) :
    (wireFrame n c op d)[2 * (n - 1 - k)]? = some (if k = c then op else 0x00#8) := by
  rw [wireFrame_getElem? (by omega), show 2 * n - 1 - 2 * (n - 1 - k) = 2 * k + 1 by omega,
    frameBuffer_getElem?_opcode hk]

/-- The data byte of chip `k`'s pair on the wire, after its opcode (R114, D10). -/
theorem wireFrame_getElem?_data {n k : Nat} (hk : k < n) (c : Nat) (op d : Byte) :
    (wireFrame n c op d)[2 * (n - 1 - k) + 1]? = some (if k = c then d else 0x00#8) := by
  rw [wireFrame_getElem? (by omega), show 2 * n - 1 - (2 * (n - 1 - k) + 1) = 2 * k by omega,
    frameBuffer_getElem?_data hk]

/-- A position that is neither byte of chip `c`'s pair holds zero. -/
theorem wireFrame_getElem?_other {n c j : Nat} (hj : j < 2 * n) (hop : j ≠ 2 * (n - 1 - c))
    (hdata : j ≠ 2 * (n - 1 - c) + 1) (hc : c < n) (op d : Byte) : (wireFrame n c op d)[j]? = some 0x00#8 := by
  obtain ⟨k, hk, rfl | rfl⟩ : ∃ k < n, j = 2 * (n - 1 - k) ∨ j = 2 * (n - 1 - k) + 1 :=
    ⟨n - 1 - j / 2, by omega, by omega⟩
  · rw [wireFrame_getElem?_opcode hk, if_neg (by omega)]
  · rw [wireFrame_getElem?_data hk, if_neg (by omega)]

/-- Settles O14: the frame read at chip `c`'s two positions and at every other. -/
theorem wirePositions : Obligations.WirePositions := by
  intro s c op d hc
  refine ⟨_, wireFrame s.n c op d, exec_xmit_of_lt hc op d, rfl, length_wireFrame .., ?opcode, ?data,
    fun j hj hop hdata => wireFrame_getElem?_other hj hop hdata hc op d⟩
  case opcode => rw [wireFrame_getElem?_opcode hc, if_pos rfl]
  case data => rw [wireFrame_getElem?_data hc, if_pos rfl]

/-! ## Through a chain of any length -/

/-- After a frame the registers hold, nearest the controller first, its bytes from the last to the first, and then what
they held before, as far as the chain reaches (R34, R191). -/
theorem shiftIn_eq_take (sr : List (Option Byte)) (frame : List Byte) :
    shiftIn sr frame = (frame.reverse.map some ++ sr).take sr.length := by
  induction frame using List.reverseRecOn with
  | nil => simp [shiftIn]
  | append_singleton sent v ih =>
    have hlast : shiftIn sr (sent ++ [v]) = shiftByte (shiftIn sr sent) v := List.foldl_append ..
    rw [hlast, ih, shiftByte, List.dropLast_eq_take]
    cases hlen : sr.length <;> simp [hlen, List.take_take]

/-- A byte of the frame that is still inside the chain (R34). -/
theorem shiftIn_getElem? {sr : List (Option Byte)} {frame : List Byte} {i : Nat} (hsr : i < sr.length)
    (hframe : i < frame.length) : (shiftIn sr frame)[i]? = frame.reverse[i]?.map some := by
  rw [shiftIn_eq_take, List.getElem?_take_of_lt hsr, List.getElem?_append_left (by simpa using hframe),
    List.getElem?_map]

/-- A chip inside both the chain and the frame holds the pair counted from the frame's end (R118). -/
theorem heldPair_shiftIn {sr : List (Option Byte)} {frame : List Byte} {k : Nat} (hsr : 2 * k + 1 < sr.length)
    (hframe : 2 * k + 1 < frame.length) : heldPair (shiftIn sr frame) k = committedPair frame k := by
  have hrev : 2 * k + 1 < frame.reverse.length := by rwa [List.length_reverse]
  rw [heldPair, committedPair, shiftIn_getElem? hsr hframe, shiftIn_getElem? (by omega) (by omega),
    List.getElem?_eq_getElem hrev, List.getElem?_eq_getElem (Nat.lt_of_succ_lt hrev)]
  rfl

/-- Settles O15: the pair a fitted chip holds is the pair it commits by the frame's end. -/
theorem frameReachesItsChips : Obligations.FrameReachesItsChips := by
  intro s c op d hc
  refine ⟨_, wireFrame s.n c op d, exec_xmit_of_lt hc op d, framesOf_append_frameEvents ..,
    fun m sr hsr k hkm hkn => ?_⟩
  rw [heldPair_shiftIn (by omega) (by rw [length_wireFrame]; omega), committedPair_wireFrame hkn]

end Sys2Proof.Machine
end

section
/-! What every instruction is: `MODE`, one request, or the register write of its chip, opcode and data
(40_register_writes.md section 1, 41_remapper.md section 1). -/

namespace Sys2Proof.Machine

/-- Settles O16: `MODE` is its two writes. -/
theorem modeCompletes : Obligations.ModeCompletes := fun _ _ => rfl

/-- The passthrough path: common-cathode mode, or an opcode outside 1..8 (R93). -/
theorem not_remap_of_passthrough {ca : Bool} {op : Byte} (hpass : ca = false ∨ op.toNat = 0 ∨ 9 ≤ op.toNat) :
    (ca && isDigitOpcode op) = false := by
  obtain rfl | hop := hpass
  · exact Bool.false_and _
  · have hdigit : isDigitOpcode op = false := decide_eq_false (by omega)
    rw [hdigit, Bool.and_false]

theorem exec_wr_passthrough {s : State} {addr : Int} {op : Byte} (h0 : 0 ≤ addr) (hn : addr < s.n)
    (hpass : s.ca = false ∨ op.toNat = 0 ∨ 9 ≤ op.toNat) (d : Byte) :
    exec (.wr addr op d) s = .next (s.afterPassthrough addr.toNat op d) := by
  change Host.Outcome.next (registerWrite addr op d s) = _
  rw [registerWrite_eq, chipOk_eq_true h0 hn, if_pos rfl, not_remap_of_passthrough hpass,
    if_neg Bool.false_ne_true]

/-- Settles O17: off the remap path a write to a chip of the chain is one frame. -/
theorem wrPassthroughCompletes : Obligations.WrPassthroughCompletes :=
  fun _ _ _ d h0 hn hpass => exec_wr_passthrough h0 hn hpass d

/-- Settles O18: on the remap path the write is the remap at the opcode's write index. -/
theorem wrRemapCompletes : Obligations.WrRemapCompletes :=
  fun _ _ _ d h0 hn hca hlow hhigh => exec_wr_commonAnode h0 hn hca hlow hhigh d

/-! ## The register rows -/

theorem digitWrite_eq_registerWrite {op : Byte} (hop : isDigitOpcode op = true) (c : Int) (d : Byte) (s : State) :
    digitWrite op (writeIndex op) c d s = registerWrite c op d s := by
  simp only [digitWrite, registerWrite, hop, Bool.and_true]

theorem passthroughWrite_eq_registerWrite {op : Byte} (hop : isDigitOpcode op = false) (c : Int) (d : Byte)
    (s : State) : passthroughWrite op c d s = registerWrite c op d s := by
  simp only [passthroughWrite, registerWrite, hop, Bool.and_false, Bool.false_eq_true, if_false]

/-- An instruction that is a register write carries that write out (R70). -/
theorem exec_of_asWrite {i : Instr} {addr : Int} {op d : Byte} (hwrite : asWrite i = some (addr, op, d)) (s : State) :
    exec i s = .next (registerWrite addr op d s) := by
  cases i with
  | mode m => cases hwrite
  | xmit c op d => cases hwrite
  | wr c op d | undefined c op d => cases hwrite; rfl
  | digit0 c d | digit1 c d | digit2 c d | digit3 c d | digit4 c d | digit5 c d | digit6 c d | digit7 c d =>
    cases hwrite
    exact congrArg Host.Outcome.next (digitWrite_eq_registerWrite rfl addr d s)
  | noop c d | decodeMode c d | intensity c d | scanLimit c d | shutdown c d | displayTest c d =>
    cases hwrite
    exact congrArg Host.Outcome.next (passthroughWrite_eq_registerWrite rfl addr d s)

/-- Settles O23: both carry out the same register write. -/
theorem registerRowsAreWr : Obligations.RegisterRowsAreWr := fun _ s _ _ _ hwrite => exec_of_asWrite hwrite s

/-- Settles O24: the address check of the register write fails. -/
theorem writeOutOfRangeDropped : Obligations.WriteOutOfRangeDropped := by
  intro i s addr op d hwrite hout
  rw [exec_of_asWrite hwrite, registerWrite_eq, chipOk_eq_false hout, if_neg Bool.false_ne_true]
  rfl

/-- Settles O27: the second write finds the bits of the first already in the accumulators. -/
theorem repeatedRemapResends : Obligations.RepeatedRemapResends := by
  intro s addr op d h0 hn _ _ _
  obtain ⟨events, hne, hfirst, hsecond, hacc⟩ :=
    registerWrite_repeated (op := op) (d := d) h0 hn (registerWrite_n addr op d s) (registerWrite_ca addr op d s) rfl
  exact ⟨_, _, events, rfl, rfl, hacc, hfirst, hsecond, hne⟩

/-- An instruction is `MODE`, one request of stage B, or a register write (R50, R70, R110). -/
theorem instr_cases (i : Instr) :
    (∃ m, i = .mode m) ∨ (∃ c op d, i = .xmit c op d) ∨ ∃ addr op d, asWrite i = some (addr, op, d) := by
  cases i with
  | mode m => exact .inl ⟨m, rfl⟩
  | xmit c op d => exact .inr (.inl ⟨c, op, d, rfl⟩)
  | _ => exact .inr (.inr ⟨_, _, _, rfl⟩)

/-- What an instruction that completes has done: written the mode, sent one frame, or carried out a register write. -/
theorem exec_cases {i : Instr} {s t : State} (h : exec i s = .next t) :
    (∃ m, i = .mode m ∧ t = { s with ca := m, rej := .none }) ∨
      (∃ (c : Nat) (op d : Byte), i = .xmit c op d ∧
        t = { s with sel := true, bus := s.bus ++ frameEvents s.n c op d }) ∨
      ∃ addr op d, asWrite i = some (addr, op, d) ∧ t = registerWrite addr op d s := by
  obtain ⟨m, rfl⟩ | ⟨c, op, d, rfl⟩ | ⟨addr, op, d, hwrite⟩ := instr_cases i
  · cases h
    exact .inl ⟨m, rfl, rfl⟩
  · by_cases hc : 0 ≤ c ∧ c < s.n
    · obtain ⟨k, rfl⟩ := Int.eq_ofNat_of_zero_le hc.1
      cases (exec_xmit_of_lt (Int.ofNat_lt.1 hc.2) op d).symm.trans h
      exact .inr (.inl ⟨k, op, d, rfl, rfl⟩)
    · cases (exec_xmit_outOfChain (by omega) op d).symm.trans h
  · cases (exec_of_asWrite hwrite s).symm.trans h
    exact .inr (.inr ⟨addr, op, d, hwrite, rfl⟩)

/-- A register write was dropped, or was carried out on the remap path or on the passthrough path (R90, R92, R93). -/
theorem registerWrite_cases (addr : Int) (op d : Byte) (s : State) :
    (¬(0 ≤ addr ∧ addr < s.n) ∧ registerWrite addr op d s = s.setRej .invalidAddress) ∨
      (0 ≤ addr ∧ addr < s.n ∧ s.ca = true ∧ 1 ≤ op.toNat ∧ op.toNat ≤ 8 ∧
        registerWrite addr op d s = s.afterRemap addr.toNat (writeIndex op) d) ∨
      (0 ≤ addr ∧ addr < s.n ∧ (s.ca && isDigitOpcode op) = false ∧
        registerWrite addr op d s = s.afterPassthrough addr.toNat op d) := by
  rw [registerWrite_eq]
  split_ifs with hchip hremap
  · obtain ⟨h0, hn⟩ := of_decide_eq_true hchip
    obtain ⟨hca, hop⟩ := Bool.and_eq_true_iff.1 hremap
    obtain ⟨hlow, hhigh⟩ := of_decide_eq_true hop
    exact .inr (.inl ⟨h0, hn, hca, hlow, hhigh, rfl⟩)
  · obtain ⟨h0, hn⟩ := of_decide_eq_true hchip
    exact .inr (.inr ⟨h0, hn, Bool.eq_false_iff.2 hremap, rfl⟩)
  · exact .inl ⟨fun h => hchip (decide_eq_true h), rfl⟩

end Sys2Proof.Machine
end

section
/-! The accumulators over a sequence of digit writes, and the block as stage A followed by stage B (41_remapper.md
section 5). -/

namespace Sys2Proof.Machine

/-! ## Digit writes one after another -/

/-- The write index of digit `k`'s register (R95). -/
theorem writeIndex_rowOpcode (k : Fin 8) : writeIndex (rowOpcode k.val) = if k.val = 7 then 7 else 6 - k.val := by
  revert k
  decide

theorem writeIndex_rowOpcode_inj {k k' : Fin 8} :
    writeIndex (rowOpcode k.val) = writeIndex (rowOpcode k'.val) ↔ k = k' := by
  revert k k'
  decide

theorem writeIndex_rowOpcode_lt (k : Fin 8) : writeIndex (rowOpcode k.val) < 8 := by
  revert k
  decide

/-- The accumulators after remapped writes of the digits `ks` in that order, digit `k` with the byte `D k`. -/
def accAfterDigits (D : Fin 8 → Byte) (ks : List (Fin 8)) (acc : Vector Byte 8) : Vector Byte 8 :=
  ks.foldl (fun a k => accAfter (writeIndex (rowOpcode k.val)) (D k) a) acc

@[simp] theorem accAfterDigits_nil (D : Fin 8 → Byte) (acc : Vector Byte 8) : accAfterDigits D [] acc = acc := rfl

@[simp] theorem accAfterDigits_cons (D : Fin 8 → Byte) (k : Fin 8) (ks : List (Fin 8)) (acc : Vector Byte 8) :
    accAfterDigits D (k :: ks) acc = accAfterDigits D ks (accAfter (writeIndex (rowOpcode k.val)) (D k) acc) := rfl

/-- Each digit has a bit of its own in every accumulator: the writes of other digits, before or after, leave it (R95). -/
theorem accAfterDigits_getLsbD (D : Fin 8 → Byte) (ks : List (Fin 8)) (acc : Vector Byte 8) (cS k : Fin 8) :
    (accAfterDigits D ks acc)[cS].getLsbD (writeIndex (rowOpcode k.val)) =
      if k ∈ ks then (D k).getLsbD (readIndex cS) else acc[cS].getLsbD (writeIndex (rowOpcode k.val)) := by
  induction ks generalizing acc with
  | nil => simp
  | cons k₀ ks ih =>
    rw [accAfterDigits_cons, ih, accAfter_getLsbD (writeIndex_rowOpcode_lt k₀) (writeIndex_rowOpcode_lt k)]
    simp only [writeIndex_rowOpcode_inj]
    by_cases hk : k = k₀
    · subst hk
      simp
    · simp [hk]

/-- A `WR` of digit `k` in common-anode mode is the remap at that digit's write index (R90, R93). -/
theorem exec_wr_digit {s : State} {addr : Int} (h0 : 0 ≤ addr) (hn : addr < s.n) (hca : s.ca = true) (k : Fin 8)
    (d : Byte) :
    exec (.wr addr (rowOpcode k.val) d) s = .next (s.afterRemap addr.toNat (writeIndex (rowOpcode k.val)) d) :=
  congrArg _ (registerWrite_commonAnode h0 hn hca (isDigitOpcode_rowOpcode k.isLt) d)

/-- The digit writes `ks` in common-anode mode all complete; nothing but them changes the accumulators. -/
theorem execAll_digits {s : State} {addr : Int} (h0 : 0 ≤ addr) (hn : addr < s.n) (hca : s.ca = true)
    (D : Fin 8 → Byte) (ks : List (Fin 8)) :
    ∃ t, execAll (ks.map fun k => .wr addr (rowOpcode k.val) (D k)) s = .next t ∧
      t.acc = accAfterDigits D ks s.acc := by
  induction ks generalizing s with
  | nil => exact ⟨s, rfl, rfl⟩
  | cons k ks ih =>
    rw [List.map_cons, execAll, exec_wr_digit h0 hn hca]
    exact ih (s := s.afterRemap addr.toNat (writeIndex (rowOpcode k.val)) (D k)) hn hca

/-- Settles O28: in any order all eight digits are written, and each has its own bit. -/
theorem transposeInAnyOrder : Obligations.TransposeInAnyOrder := by
  intro s addr D order h0 hn hca hperm
  obtain ⟨t, hexec, hacc⟩ := execAll_digits h0 hn hca D order
  refine ⟨t, hexec, fun cS k => ?_⟩
  have hk : k ∈ order := hperm.mem_iff.2 (List.mem_finRange k)
  rw [hacc, ← writeIndex_rowOpcode, accAfterDigits_getLsbD, if_pos hk]
  rfl

/-! ## Stage A and stage B -/

/-- The segments one after another put their accumulators at the final value (R96). -/
theorem foldl_set_eq_accAfterSegments (cSs : List (Fin 8)) (hnd : cSs.Nodup) (w : Nat) (d : Byte)
    (acc : Vector Byte 8) :
    cSs.foldl (fun a (cS : Fin 8) => a.set cS.val (setbit a[cS] w (bit d (readIndex cS)))) acc =
      accAfterSegments cSs w d acc := by
  induction cSs generalizing acc with
  | nil => simp
  | cons cS rest ih =>
    obtain ⟨hnotin, hrest⟩ := List.nodup_cons.1 hnd
    rw [List.foldl_cons, ih hrest, ← accAfterSegments_cons hnotin, Fin.getElem_fin (accAfter w d acc),
      accAfter_getElem]
    rfl

/-- Stage A's accumulators are those of the remap, all eight at once (R96). -/
theorem remapAcc_eq_accAfter (w : Nat) (d : Byte) (acc : Vector Byte 8) : remapAcc w d acc = accAfter w d acc := by
  rw [remapAcc, foldl_set_eq_accAfterSegments segments (by decide), accAfterSegments_segments]

/-- Stage B sends one frame per request, in order, and leaves `SEL` high if there was one (R104). -/
theorem stageB_eq (requests : List Request) (s : State) :
    stageB requests s =
      { s with
        sel := s.sel || !requests.isEmpty,
        bus := s.bus ++ requests.flatMap fun r => frameEvents s.n r.c r.op r.d } := by
  induction requests generalizing s with
  | nil => simp [stageB]
  | cons r rest ih =>
    have hstep : stageB (r :: rest) s = stageB rest (xmit r.c r.op r.d s) := rfl
    rw [hstep, ih, xmit_eq_frameEvents]
    simp

/-- The requests of a remap are its eight frames (R97). -/
theorem flatMap_remapRequests (n c : Nat) (acc : Vector Byte 8) :
    (remapRequests c acc).flatMap (fun r => frameEvents n r.c r.op r.d) = remapEvents n c acc := by
  rw [remapRequests, List.flatMap_map]
  rfl

theorem remapRequests_isEmpty (c : Nat) (acc : Vector Byte 8) : (remapRequests c acc).isEmpty = false := rfl

/-- Stage A on a write: the drop, the remap's eight requests, or the one request of the passthrough (R104). -/
theorem stageA_wr (ca : Bool) (acc : Vector Byte 8) (n : Nat) (addr : Int) (op d : Byte) :
    stageA ca acc n (.wr addr op d) =
      if chipOk n addr then
        if ca && isDigitOpcode op then
          ⟨ca, accAfter (writeIndex op) d acc, remapRequests addr.toNat (accAfter (writeIndex op) d acc), .none⟩
        else ⟨ca, acc, [⟨addr.toNat, op, d⟩], .none⟩
      else ⟨ca, acc, [], .invalidAddress⟩ := by
  rw [stageA, remapAcc_eq_accAfter]
  cases chipOk n addr <;> rfl

/-- The state stage A's results make before stage B runs. -/
def State.afterStageA (s : State) (a : StageAResult) : State := { s with ca := a.ca, acc := a.acc, rej := a.rej }

/-- A register write is stage A and then stage B on its requests (R104). -/
theorem registerWrite_eq_stageB_stageA (addr : Int) (op d : Byte) (s : State) :
    registerWrite addr op d s =
      stageB (stageA s.ca s.acc s.n (.wr addr op d)).requests
        (s.afterStageA (stageA s.ca s.acc s.n (.wr addr op d))) := by
  rw [registerWrite_eq, stageA_wr, stageB_eq]
  split_ifs
  · simp [State.afterRemap, State.afterStageA, flatMap_remapRequests, remapRequests_isEmpty]
  · simp [State.afterPassthrough, State.afterStageA]
  · simp [State.setRej, State.afterStageA]

/-- Stage A names chips of the chain only (R104, D5). -/
theorem request_inChain {ca : Bool} {acc : Vector Byte 8} {n : Nat} {cmd : Command} {r : Request}
    (hr : r ∈ (stageA ca acc n cmd).requests) : r.c < n := by
  cases cmd with
  | mode m => cases hr
  | wr addr op d =>
    rw [stageA_wr] at hr
    split_ifs at hr with hchip
    · obtain ⟨cS, -, rfl⟩ := List.mem_map.1 hr
      have := of_decide_eq_true hchip
      change addr.toNat < n
      omega
    · cases List.mem_singleton.1 hr
      have := of_decide_eq_true hchip
      change addr.toNat < n
      omega
    · cases hr

/-- Settles O30: `WR` is stage A then stage B, and `MODE` has no request for stage B. -/
theorem stageAThenStageB : Obligations.StageAThenStageB := fun s =>
  ⟨fun addr op d => congrArg _ (registerWrite_eq_stageB_stageA addr op d s), fun _ => rfl,
    fun _ _ hr => request_inChain hr⟩

end Sys2Proof.Machine
end

section
/-! What the chips' registers hold after a write, in the chain's view (42_serializer.md section 1, R118). -/

namespace Sys2Proof.Machine

/-- More whole frames on the bus are committed after those before them (R118). -/
theorem lastWrite_append (bus : List BusEvent) (frames : List (List Byte)) (k : Nat) (p : Byte) :
    lastWrite (bus ++ frames.flatMap bracketed) k p = frames.foldl (commitFrame k p) (lastWrite bus k p) := by
  rw [lastWrite, framesOf_append_flatMap_bracketed, List.foldl_append]
  rfl

/-- The frame of a request writes one register of the addressed chip, and none for opcode 0 (R60, R118). -/
theorem commitFrame_wireFrame {n k : Nat} (hk : k < n) (c : Nat) (op d p : Byte) (old : Option Byte) :
    commitFrame k p old (wireFrame n c op d) = if k = c ∧ p = op ∧ p ≠ 0x00#8 then some d else old := by
  rw [commitFrame, committedPair_wireFrame hk]
  by_cases hkc : k = c
  · rw [if_pos hkc]
    exact if_congr (by rw [eq_comm, and_iff_right hkc]) rfl rfl
  · rw [if_neg hkc, if_neg fun h => hkc h.1]
    exact if_neg fun h => h.2 h.1.symm

theorem lastWrite_append_frameEvents {n k : Nat} (hk : k < n) (bus : List BusEvent) (c : Nat) (op d p : Byte) :
    lastWrite (bus ++ frameEvents n c op d) k p =
      if k = c ∧ p = op ∧ p ≠ 0x00#8 then some d else lastWrite bus k p := by
  rw [← commitFrame_wireFrame hk, frameEvents, ← List.flatMap_singleton bracketed, lastWrite_append]
  rfl

/-- Settles O31: the one frame of the passthrough write commits the pair in the addressed chip. -/
theorem passthroughChangesOneChipRegister : Obligations.PassthroughChangesOneChipRegister :=
  fun _ _ _ d h0 hn hpass =>
    ⟨_, exec_wr_passthrough h0 hn hpass d, fun _ _ hk => lastWrite_append_frameEvents hk _ _ _ _ _⟩

/-! ## The eight frames of a remap -/

theorem targetOpcode_inj {cS cS' : Fin 8} : targetOpcode cS = targetOpcode cS' ↔ cS = cS' := by
  revert cS cS'
  decide

theorem toNat_targetOpcode (cS : Fin 8) : (targetOpcode cS).toNat = cS.val + 1 := by
  revert cS
  decide

section
variable {n k : Nat} (hk : k < n) (c : Nat) (acc : Vector Byte 8) (cSs : List (Fin 8)) (old : Option Byte)
include hk

/-- The frames of some segments leave every register that is not one of theirs in the addressed chip (R97, R118). -/
theorem foldl_commitFrame_segments_other {p : Byte} (hother : ∀ cS ∈ cSs, ¬(k = c ∧ p = targetOpcode cS)) :
    (cSs.map fun cS => wireFrame n c (targetOpcode cS) acc[cS]).foldl (commitFrame k p) old = old := by
  induction cSs generalizing old with
  | nil => rfl
  | cons cS rest ih =>
    obtain ⟨hfirst, hrest⟩ := List.forall_mem_cons.1 hother
    rw [List.map_cons, List.foldl_cons, commitFrame_wireFrame hk, if_neg fun h => hfirst ⟨h.1, h.2.1⟩, ih _ hrest]

/-- In the addressed chip the frames of some segments leave in each one's register its accumulator (R97, R118). -/
theorem foldl_commitFrame_segments_target (hkc : k = c) {cS : Fin 8} (hmem : cS ∈ cSs) :
    (cSs.map fun cS => wireFrame n c (targetOpcode cS) acc[cS]).foldl (commitFrame k (targetOpcode cS)) old =
      some acc[cS] := by
  induction cSs generalizing old with
  | nil => cases hmem
  | cons first rest ih =>
    rw [List.map_cons, List.foldl_cons]
    by_cases hrest : cS ∈ rest
    · exact ih _ hrest
    · obtain rfl : cS = first := (List.mem_cons.1 hmem).resolve_right hrest
      have hne : targetOpcode cS ≠ 0x00#8 := by
        rw [ne_eq, ← BitVec.toNat_inj, toNat_targetOpcode]
        exact Nat.succ_ne_zero _
      rw [commitFrame_wireFrame hk, if_pos ⟨hkc, rfl, hne⟩]
      refine foldl_commitFrame_segments_other hk c acc rest _ fun cS' hcS' h => hrest ?_
      exact targetOpcode_inj.1 h.2 ▸ hcS'

end

/-- After a remapped write the addressed chip's registers 1 to 8 hold the accumulators (R97). -/
theorem lastWrite_append_remapEvents_target {n c : Nat} (hc : c < n) (bus : List BusEvent) (acc : Vector Byte 8)
    (cS : Fin 8) : lastWrite (bus ++ remapEvents n c acc) c (targetOpcode cS) = some acc[cS] := by
  rw [remapEvents_eq_flatMap_remapFrames, lastWrite_append]
  exact foldl_commitFrame_segments_target hc c acc _ _ rfl (List.mem_finRange cS)

/-- A remapped write leaves the other registers of the addressed chip, and every register of the others (R43). -/
theorem lastWrite_append_remapEvents_other {n k : Nat} (hk : k < n) (bus : List BusEvent) {c : Nat}
    (acc : Vector Byte 8) {p : Byte} (hother : k ≠ c ∨ p.toNat = 0 ∨ 9 ≤ p.toNat) :
    lastWrite (bus ++ remapEvents n c acc) k p = lastWrite bus k p := by
  rw [remapEvents_eq_flatMap_remapFrames, lastWrite_append]
  refine foldl_commitFrame_segments_other hk c acc _ _ fun cS _ h => ?_
  have hp : p.toNat = cS.val + 1 := h.2 ▸ toNat_targetOpcode cS
  omega

/-- Settles O32: the eight frames of the remap write these registers and no other. -/
theorem remapFillsTheEightRegisters : Obligations.RemapFillsTheEightRegisters := by
  intro s addr op d h0 hn hca hlow hhigh
  exact ⟨_, exec_wr_commonAnode h0 hn hca hlow hhigh d,
    fun cS => lastWrite_append_remapEvents_target (by omega) _ _ cS,
    fun k p hk hother => lastWrite_append_remapEvents_other hk _ _ hother⟩

/-- Different digit registers have different write indices (R95). -/
theorem writeIndex_ne {op op' : Byte} (hlow : 1 ≤ op.toNat) (hhigh : op.toNat ≤ 8) (hlow' : 1 ≤ op'.toNat)
    (hhigh' : op'.toNat ≤ 8) (hne : op ≠ op') : writeIndex op ≠ writeIndex op' := by
  have hnat : op.toNat ≠ op'.toNat := fun h => hne (BitVec.eq_of_toNat_eq h)
  unfold writeIndex
  split_ifs <;> omega

/-- Settles O29: the second write leaves the bit of the first, and sends all eight accumulators to chip `b`. -/
theorem accumulatorsAreShared : Obligations.AccumulatorsAreShared := by
  intro s a b op op' d d' ha hb hca hlow hhigh hlow' hhigh' hne
  refine ⟨_, _, exec_wr_commonAnode (Int.natCast_nonneg a) (Int.ofNat_lt.2 ha) hca hlow hhigh d,
    exec_wr_commonAnode (s := s.afterRemap _ _ _) (Int.natCast_nonneg b) (Int.ofNat_lt.2 hb) hca hlow' hhigh' d',
    fun cS => ⟨?kept, lastWrite_append_remapEvents_target hb _ _ cS⟩⟩
  case kept =>
    have hw := writeIndex_lt hlow
    have hsecond := accAfter_getLsbD (writeIndex_lt hlow') hw d' (accAfter (writeIndex op) d s.acc) cS
    rw [if_neg (writeIndex_ne hlow hhigh hlow' hhigh' hne), accAfter_getLsbD hw hw, if_pos rfl] at hsecond
    exact hsecond

end Sys2Proof.Machine
end

section
/-! What every instruction leaves alone and what it appends to the bus (10_state.md sections 2 and 3, 20_memory.md
section 3). -/

namespace Sys2Proof.Machine

/-- Settles O33: of the three things an instruction can do, only `MODE` writes the mode and only the remap the
accumulators. -/
theorem onlyModeWritesWiringOnlyRemapWritesAcc : Obligations.OnlyModeWritesWiringOnlyRemapWritesAcc := by
  intro i s t h
  obtain ⟨m, rfl, rfl⟩ | ⟨c, op, d, rfl, rfl⟩ | ⟨addr, op, d, hwrite, rfl⟩ := exec_cases h
  · exact ⟨fun hmode => absurd rfl (hmode m), fun hacc => absurd rfl hacc⟩
  · exact ⟨fun _ => rfl, fun hacc => absurd rfl hacc⟩
  · refine ⟨fun _ => registerWrite_ca addr op d s, fun hacc => ?_⟩
    obtain ⟨-, hdrop⟩ | ⟨h0, hn, hca, hlow, hhigh, -⟩ | ⟨-, -, -, hpass⟩ := registerWrite_cases addr op d s
    · exact absurd (by rw [hdrop]; rfl) hacc
    · exact ⟨hca, addr, op, d, hwrite, hlow, hhigh, h0, hn⟩
    · exact absurd (by rw [hpass]; rfl) hacc

/-! ## Fields no register write touches -/

@[simp] theorem registerWrite_busy (addr : Int) (op d : Byte) (s : State) :
    (registerWrite addr op d s).busy = s.busy := by
  rw [registerWrite_eq]
  split_ifs <;> rfl

@[simp] theorem registerWrite_pending (addr : Int) (op d : Byte) (s : State) :
    (registerWrite addr op d s).pending = s.pending := by
  rw [registerWrite_eq]
  split_ifs <;> rfl

@[simp] theorem registerWrite_ret (addr : Int) (op d : Byte) (s : State) :
    (registerWrite addr op d s).ret = s.ret := by
  rw [registerWrite_eq]
  split_ifs <;> rfl

/-- A register write ends with select high, or is dropped and leaves it (R113). -/
theorem registerWrite_sel {s : State} (hsel : s.sel = true) (addr : Int) (op d : Byte) :
    (registerWrite addr op d s).sel = true := by
  rw [registerWrite_eq]
  split_ifs
  · rfl
  · rfl
  · exact hsel

/-- Settles O34: neither the mode, nor a frame, nor a register write is any of these fields. -/
theorem instructionsLeaveCountAndHostAlone : Obligations.InstructionsLeaveCountAndHostAlone := by
  intro i s t h
  obtain ⟨m, -, rfl⟩ | ⟨c, op, d, -, rfl⟩ | ⟨addr, op, d, -, rfl⟩ := exec_cases h
  · exact ⟨rfl, rfl, rfl, rfl, rfl, id⟩
  · exact ⟨rfl, rfl, rfl, rfl, rfl, fun _ => rfl⟩
  · exact ⟨by simp, by simp, by simp, by simp, by simp, fun hsel => registerWrite_sel hsel addr op d⟩

/-! ## The frames an instruction appends -/

/-- A frame is that of some request in a chain of `n` chips (R56). -/
def IsWireFrame (n : Nat) (frame : List Byte) : Prop := ∃ c op d, frame = wireFrame n c op d

theorem isWireFrame_wireFrame (n c : Nat) (op d : Byte) : IsWireFrame n (wireFrame n c op d) := ⟨c, op, d, rfl⟩

theorem IsWireFrame.length_eq {n : Nat} {frame : List Byte} (h : IsWireFrame n frame) : frame.length = 2 * n := by
  obtain ⟨c, op, d, rfl⟩ := h
  exact length_wireFrame n c op d

/-- The bus has grown by whole frames of a chain of `n` chips, at most eight (R44). -/
def AppendsFrames (n : Nat) (before after : List BusEvent) : Prop :=
  ∃ frames : List (List Byte), after = before ++ frames.flatMap bracketed ∧ frames.length ≤ 8 ∧
    ∀ frame ∈ frames, IsWireFrame n frame

theorem appendsFrames_refl (n : Nat) (bus : List BusEvent) : AppendsFrames n bus bus :=
  ⟨[], (List.append_nil bus).symm, Nat.zero_le 8, List.forall_mem_nil _⟩

theorem appendsFrames_frameEvents (n : Nat) (bus : List BusEvent) (c : Nat) (op d : Byte) :
    AppendsFrames n bus (bus ++ frameEvents n c op d) :=
  ⟨[wireFrame n c op d], by rw [List.flatMap_singleton, frameEvents], Nat.le_add_left 1 7,
    List.forall_mem_singleton.2 (isWireFrame_wireFrame n c op d)⟩

theorem appendsFrames_remapEvents (n : Nat) (bus : List BusEvent) (c : Nat) (acc : Vector Byte 8) :
    AppendsFrames n bus (bus ++ remapEvents n c acc) :=
  ⟨remapFrames n c acc, by rw [remapEvents_eq_flatMap_remapFrames], (length_remapFrames n c acc).le,
    List.forall_mem_map.2 fun cS _ => isWireFrame_wireFrame n c (targetOpcode cS) acc[cS]⟩

/-- A register write appends no frame, one, or the eight of the remap (R92, R93, R97). -/
theorem registerWrite_appendsFrames (addr : Int) (op d : Byte) (s : State) :
    AppendsFrames s.n s.bus (registerWrite addr op d s).bus := by
  rw [registerWrite_eq]
  split_ifs
  · exact appendsFrames_remapEvents ..
  · exact appendsFrames_frameEvents ..
  · exact appendsFrames_refl ..

theorem exec_appendsFrames {i : Instr} {s t : State} (h : exec i s = .next t) : AppendsFrames s.n s.bus t.bus := by
  obtain ⟨m, -, rfl⟩ | ⟨c, op, d, -, rfl⟩ | ⟨addr, op, d, -, rfl⟩ := exec_cases h
  · exact appendsFrames_refl ..
  · exact appendsFrames_frameEvents ..
  · exact registerWrite_appendsFrames addr op d s

/-- The events of frames of `n` bytes each: their bytes and two select edges a frame (R113). -/
theorem length_flatMap_bracketed {frames : List (List Byte)} {n : Nat} (hlen : ∀ frame ∈ frames, frame.length = n) :
    (frames.flatMap bracketed).length = frames.length * (n + 2) := by
  have hbracketed : ∀ frame ∈ frames, (bracketed frame).length = n + 2 := fun frame hframe => by
    rw [length_bracketed, hlen frame hframe]
  rw [List.length_flatMap, List.map_congr_left hbracketed, List.map_const', List.sum_replicate, smul_eq_mul]

/-- Settles O35: at most eight whole frames of `2N` bytes are appended. -/
theorem instructionsAppendWholeFrames : Obligations.InstructionsAppendWholeFrames := by
  intro i s t h
  obtain ⟨frames, hbus, hcount, hframes⟩ := exec_appendsFrames h
  have hlen : ∀ frame ∈ frames, frame.length = 2 * s.n := fun frame hframe => (hframes frame hframe).length_eq
  refine ⟨frames, hbus, ?committed, hcount, hlen, ?events⟩
  case committed => rw [hbus, framesOf_append_flatMap_bracketed]
  case events =>
    rw [hbus, List.length_append, length_flatMap_bracketed hlen]
    exact Nat.add_le_add_left (Nat.mul_le_mul_right _ hcount) _

end Sys2Proof.Machine
end

section
/-! `construct`, `clearDisplay`, `setDigit` and `setChar`, the bit flip, and what an operation reports
(43_host_ops.md). -/

namespace Sys2Proof.Machine

/-! ## The bit flip -/

/-- The source bit of each output bit of `FLIP` (R150). -/
def flipSource : Fin 8 → Fin 8 := ![0, 4, 5, 6, 1, 2, 3, 7]

theorem flipBits_getLsbD (v : Byte) (i : Fin 8) : (flipBits v).getLsbD i = v.getLsbD (flipSource i) := by
  fin_cases i <;> simp [flipBits, flipSource]

theorem flipSource_flipSource (i : Fin 8) : flipSource (flipSource i) = i := by
  revert i
  decide

/-- `FLIP` is its own inverse, as its permutation of the bits is (R151). -/
theorem flipBits_flipBits (v : Byte) : flipBits (flipBits v) = v := by
  apply BitVec.eq_of_getLsbD_eq
  intro i hi
  have hbit : (flipBits v).getLsbD (flipSource ⟨i, hi⟩) = v.getLsbD i := by
    rw [flipBits_getLsbD, flipSource_flipSource]
  exact (flipBits_getLsbD (flipBits v) ⟨i, hi⟩).trans hbit

/-- Settles O52: each output bit is its source bit, and the permutation is its own inverse. -/
theorem flipPermutesBits : Obligations.FlipPermutesBits := fun v =>
  ⟨flipBits_getLsbD v 0, flipBits_getLsbD v 1, flipBits_getLsbD v 2, flipBits_getLsbD v 3, flipBits_getLsbD v 4,
    flipBits_getLsbD v 5, flipBits_getLsbD v 6, flipBits_getLsbD v 7, rfl, rfl, flipBits_flipBits v⟩

/-! ## `construct` -/

/-- What the boot sequence writes to one chip (R182). -/
def bootChip (c : Nat) (s : State) : State :=
  bootWrites.foldl (fun u (p : Byte × Byte) => registerWrite (c : Int) p.1 p.2 u) s

theorem boot_eq_foldl_bootChip (s : State) : boot s = (List.range s.n).foldl (fun t c => bootChip c t) s := rfl

/-- The bus events of the boot of one chip of a chain of `n` (R182, D16). -/
def bootEvents (n c : Nat) : List BusEvent := frameEvents n c 0x09#8 0x00#8 ++ frameEvents n c 0x0C#8 0x00#8

/-- The boot of a chip of the chain is its two frames, where nothing has been dropped and select is high. -/
theorem bootChip_eq {s : State} {c : Nat} (hc : c < s.n) (hrej : s.rej = .none) (hsel : s.sel = true) :
    bootChip c s = { s with bus := s.bus ++ bootEvents s.n c } := by
  have h0 : (0 : Int) ≤ c := Int.natCast_nonneg c
  have hn : (c : Int) < s.n := Int.ofNat_lt.2 hc
  have hwrites : bootChip c s = registerWrite c 0x0C#8 0x00#8 (registerWrite c 0x09#8 0x00#8 s) := rfl
  rw [hwrites, registerWrite_inChain_of_not_isDigitOpcode h0 hn rfl,
    registerWrite_inChain_of_not_isDigitOpcode (s := s.afterPassthrough _ _ _) h0 hn rfl]
  simp [State.afterPassthrough, bootEvents, hrej, hsel]

theorem foldl_bootChip {s : State} {cs : List Nat} (hcs : ∀ c ∈ cs, c < s.n) (hrej : s.rej = .none)
    (hsel : s.sel = true) :
    cs.foldl (fun t c => bootChip c t) s = { s with bus := s.bus ++ cs.flatMap (bootEvents s.n) } := by
  induction cs generalizing s with
  | nil => simp
  | cons c rest ih =>
    obtain ⟨hc, hrest⟩ := List.forall_mem_cons.1 hcs
    have hothers := ih (s := { s with bus := s.bus ++ bootEvents s.n c }) hrest hrej hsel
    rw [List.foldl_cons, bootChip_eq hc hrej hsel, hothers, List.flatMap_cons, List.append_assoc]

/-- Settles O41: after reset the boot of each chip appends its two frames. -/
theorem constructResetsAndBoots : Obligations.ConstructResetsAndBoots := by
  intro s p1 p2 p3 chipCount
  change hostConstruct chipCount s = _
  rw [hostConstruct, boot_eq_foldl_bootChip, foldl_bootChip (fun c hc => List.mem_range.1 hc) rfl rfl]
  rfl

/-! ## A row byte sent to a chip of the chain -/

section
variable {s : State} {c r : Nat} (hc : c < s.n) (hr : r < 8) (stored sent : Byte)
include hc

theorem registerWrite_rej (op d : Byte) : (registerWrite (c : Int) op d s).rej = .none := by
  rw [registerWrite_eq, chipOk_eq_true (Int.natCast_nonneg c) (Int.ofNat_lt.2 hc), if_pos rfl]
  split_ifs <;> rfl

@[simp] theorem storeRow_rej (r : Nat) : (storeRow c r stored sent s).rej = .none :=
  registerWrite_rej (s := s.setMirror c r stored) hc _ sent

@[simp] theorem setPixel_rej (r k : Nat) (on : Bool) : (setPixel c r k on s).rej = .none := by
  rw [setPixel_eq_storeRow, storeRow_rej hc]

/-- Row writes to a chip of the chain, one after another: the last is carried out like the others. -/
theorem foldl_rej {act : Fin 8 → State → State} (hact : ∀ r t, c < t.n → (act r t).rej = .none)
    (hcount : ∀ r t, (act r t).n = t.n) (r : Fin 8) (rs : List (Fin 8)) :
    ((r :: rs).foldl (fun t r => act r t) s).rej = .none := by
  induction rs generalizing r s with
  | nil => exact hact r s hc
  | cons r' rs ih => exact ih (s := act r s) ((hcount r s).symm ▸ hc) r'

theorem clearRows_rej : (clearRows c s).rej = .none :=
  foldl_rej hc (fun _ _ ht => storeRow_rej ht _ _ _) (fun _ _ => storeRow_n ..) 0 [1, 2, 3, 4, 5, 6, 7]

theorem columnPixels_rej (k : Nat) (value : Byte) : (columnPixels c k value s).rej = .none :=
  foldl_rej hc (fun _ _ ht => setPixel_rej ht _ _ _) (fun _ _ => setPixel_n ..) 0 [1, 2, 3, 4, 5, 6, 7]

include hr

/-- A row sent changes the accumulators in common-anode mode only (R93, R96). -/
theorem storeRow_acc :
    (storeRow c r stored sent s).acc = if s.ca then accAfter (writeIndex (rowOpcode r)) sent s.acc else s.acc := by
  rw [storeRow, registerWrite_eq, State.setMirror_n, State.setMirror_ca,
    chipOk_eq_true (Int.natCast_nonneg c) (Int.ofNat_lt.2 hc), if_pos rfl, isDigitOpcode_rowOpcode hr, Bool.and_true]
  cases s.ca <;> rfl

end

/-! ## `clearDisplay` -/

/-- Zero stored in and sent for the rows `rs` of chip `c`, one after another. -/
def clearRowsIn (c : Nat) (rs : List (Fin 8)) (s : State) : State :=
  rs.foldl (fun t r => storeRow c r.val 0x00#8 0x00#8 t) s

theorem clearRows_eq_clearRowsIn_rows (c : Nat) (s : State) : clearRows c s = clearRowsIn c rows s := rfl

@[simp] theorem clearRowsIn_cons (c : Nat) (r : Fin 8) (rs : List (Fin 8)) (s : State) :
    clearRowsIn c (r :: rs) s = clearRowsIn c rs (storeRow c r.val 0x00#8 0x00#8 s) := rfl

@[simp] theorem clearRowsIn_n (c : Nat) (rs : List (Fin 8)) (s : State) : (clearRowsIn c rs s).n = s.n := by
  induction rs generalizing s with
  | nil => rfl
  | cons r rs ih => rw [clearRowsIn_cons, ih, storeRow_n]

@[simp] theorem clearRowsIn_ca (c : Nat) (rs : List (Fin 8)) (s : State) : (clearRowsIn c rs s).ca = s.ca := by
  induction rs generalizing s with
  | nil => rfl
  | cons r rs ih => rw [clearRowsIn_cons, ih, storeRow_ca]

/-- The rows cleared are zero in the mirror, every other byte stays (R137). -/
theorem clearRowsIn_mirrorAt {s : State} (hwf : Memory.wf s.mirror = true) (c c' : Nat) (r : Fin 8)
    (rs : List (Fin 8)) :
    (clearRowsIn c rs s).mirrorAt c' r = if c' = c ∧ r ∈ rs then 0x00#8 else s.mirrorAt c' r := by
  induction rs generalizing s with
  | nil => simp [clearRowsIn]
  | cons r₀ rs ih =>
    have hwf' : Memory.wf (storeRow c r₀.val 0x00#8 0x00#8 s).mirror = true := by
      rw [storeRow_mirror]
      exact Memory.wf_write _ _ _ hwf
    rw [clearRowsIn_cons, ih hwf', storeRow_mirrorAt hwf r₀.isLt r.isLt]
    by_cases hr : r = r₀
    · subst hr
      by_cases hcc : c' = c <;> simp [hcc]
    · have hval : r.val ≠ r₀.val := fun h => hr (Fin.ext h)
      simp [hr, hval]

section
variable {s : State} {c : Nat} (hc : c < s.n)
include hc

/-- Each row cleared is a whole number of frames: one in common-cathode mode, eight in common-anode mode. -/
theorem clearRowsIn_appends_frames (rs : List (Fin 8)) :
    ∃ frames, framesOf (clearRowsIn c rs s).bus = framesOf s.bus ++ frames ∧
      frames.length = rs.length * if s.ca then 8 else 1 := by
  induction rs generalizing s with
  | nil => exact ⟨[], by simp [clearRowsIn]⟩
  | cons r rs ih =>
    obtain ⟨first, hfirst, hfirstLen⟩ := storeRow_appends_frames hc r.isLt 0x00#8 0x00#8
    obtain ⟨others, hothers, hothersLen⟩ := ih (s := storeRow c r.val 0x00#8 0x00#8 s) (by simpa using hc)
    refine ⟨first ++ others, ?_, ?_⟩
    · rw [clearRowsIn_cons, hothers, hfirst, List.append_assoc]
    · rw [List.length_append, hfirstLen, hothersLen, storeRow_ca, List.length_cons]
      ring

/-- In common-anode mode the rows cleared are digit writes of zero (R93, R96). -/
theorem clearRowsIn_acc (rs : List (Fin 8)) :
    (clearRowsIn c rs s).acc = if s.ca then accAfterDigits (fun _ => 0x00#8) rs s.acc else s.acc := by
  induction rs generalizing s with
  | nil => simp [clearRowsIn]
  | cons r rs ih =>
    rw [clearRowsIn_cons, ih (by simpa using hc), storeRow_ca, storeRow_acc hc r.isLt]
    cases s.ca <;> rfl

end

/-- All eight digits written with zero leave no bit set in any accumulator (R101). -/
theorem accAfterDigits_rows_zero (acc : Vector Byte 8) :
    accAfterDigits (fun _ => 0x00#8) rows acc = Vector.replicate 8 0x00#8 := by
  have hdigit : ∀ j < 8, ∃ k : Fin 8, k ∈ rows ∧ writeIndex (rowOpcode k.val) = j := by decide
  ext i hi j hj
  obtain ⟨k, hk, rfl⟩ := hdigit j hj
  have hbit := accAfterDigits_getLsbD (fun _ => 0x00#8) rows acc ⟨i, hi⟩ k
  rw [if_pos hk] at hbit
  simpa [BitVec.getLsbD_eq_getElem hj] using hbit

section
variable {s : State} {chip : Int} (h0 : 0 ≤ chip) (hn : chip < s.n)
include h0 hn

theorem hostExec_clearDisplay :
    hostExec (.clearDisplay chip) s = .next ((clearRows chip.toNat s).setRet ⟨.none, none⟩) :=
  validated_accepted (firstFailure_addressCheck_inChain h0 hn []) _ s

/-- The eight `setRow` calls with zero, rows ascending, clear the rows (R137). -/
theorem callAll_setRow_clear :
    callAll (rows.map fun r => .setRow chip r.val 0x00#8) s =
      .next ((clearRows chip.toNat s).setRet ⟨.none, none⟩) := by
  refine callAll_map_eq_foldl (n := s.n) (fun r : Fin 8 => .setRow chip r.val 0x00#8)
    (fun r => storeRow chip.toNat r.val 0x00#8 0x00#8) (fun r t ht => ?_)
    (fun _ _ => storeRow_n ..) (fun _ _ _ => storeRow_setRet ..) 0 [1, 2, 3, 4, 5, 6, 7] s rfl
  exact hostExec_setRow h0 (ht ▸ hn) (by omega) (by omega) 0x00#8

end

/-- Settles O49: the display is cleared by its eight row stores of zero, as the run of `setRow` calls is. -/
theorem clearDisplayZeroesTheChip : Obligations.ClearDisplayZeroesTheChip := by
  refine ⟨?carriedOut, fun s chip hchip => validated_chip_outOfChain hchip _ _⟩
  case carriedOut =>
    intro s chip h0 hn hwf
    have hc : chip.toNat < s.n := by omega
    obtain ⟨frames, hframes, hlen⟩ := clearRowsIn_appends_frames hc rows
    refine ⟨_, frames, hostExec_clearDisplay h0 hn, callAll_setRow_clear h0 hn, ?frames, ?length, ?acc,
      ?rej, rfl, ?wiring, ?count, fun c r hr => ?mirror⟩
    case frames => rw [State.setRet_bus, clearRows_eq_clearRowsIn_rows, hframes]
    case rej => rw [State.setRet_rej, clearRows_rej hc]
    case wiring => rw [State.setRet_ca, clearRows_eq_clearRowsIn_rows, clearRowsIn_ca]
    case count => rw [State.setRet_n, clearRows_eq_clearRowsIn_rows, clearRowsIn_n]
    case length =>
      rw [hlen]
      cases s.ca <;> rfl
    case acc =>
      rw [State.setRet_acc, clearRows_eq_clearRowsIn_rows, clearRowsIn_acc hc, accAfterDigits_rows_zero]
    case mirror =>
      have hrows : ∀ r : Fin 8, r ∈ rows := by decide
      rw [State.setRet_mirrorAt, clearRows_eq_clearRowsIn_rows]
      simpa only [hrows, and_true] using clearRowsIn_mirrorAt hwf chip.toNat c ⟨r, hr⟩ rows

/-! ## `setDigit` and `setChar` -/

/-- A digit's glyph: a call whose checks pass stores `v` in the mirror and sends it, flipped if `reverse` (R141, R142,
R152). -/
theorem validated_glyph {s : State} {chip digit : Int} (h0 : 0 ≤ chip) (hd0 : 0 ≤ digit) (hd7 : digit ≤ 7)
    (hwf : Memory.wf s.mirror = true) {checks : List (Bool × RejKind)} (hpass : firstFailure checks = .none) (v : Byte)
    (reverse : Bool) :
    ∃ t, exec (.wr chip (BitVec.ofNat 8 (digit.toNat + 1)) (sentByte reverse v))
        (s.setMirror chip.toNat digit.toNat v) = .next t ∧
      validated checks (storeRow chip.toNat digit.toNat v (sentByte reverse v)) s =
        .next { t with ret := some ⟨.none, none⟩ } ∧
      t.mirrorAt chip.toNat digit.toNat = v := by
  have hd : digit.toNat < 8 := by omega
  refine ⟨_, exec_wr_setMirror h0 digit.toNat v _ s, validated_accepted hpass _ s, ?_⟩
  rw [storeRow_mirrorAt hwf hd hd, if_pos ⟨rfl, rfl⟩]

theorem digitCode_eq {value : Int} {k : Fin 128} (hk : (k.val : Int) = value) : digitCode value = k := by
  subst hk
  exact Fin.ext (Nat.mod_eq_of_lt k.isLt)

theorem charCode_eq {ch : Byte} {k : Fin 128} (hk : k.val = if ch.toNat > 127 then 32 else ch.toNat) :
    charCode ch = k := by
  apply Fin.ext
  rw [charCode, hk]
  split_ifs with hhigh
  · rfl
  · exact Nat.mod_eq_of_lt (by omega)

/-- Settles O50: the glyph of the value's or the character's code is stored and sent. -/
theorem setDigitAndSetCharStoreGlyphs : Obligations.SetDigitAndSetCharStoreGlyphs := by
  constructor
  · intro s chip digit value dp rev k h0 hn hd0 hd7 hv0 hv15 hk hwf
    have hpass : firstFailure [addressCheck s.n chip, coordCheck digit, valueCheck 15 value] = .none := by
      simp [firstFailure_addressCheck_inChain h0 hn, coordCheck, coordOk_eq_true hd0 hd7, valueCheck,
        valueOk_eq_true hv0 hv15]
    obtain ⟨t, hexec, hcall, hmirror⟩ := validated_glyph h0 hd0 hd7 hwf hpass (glyphByte (digitCode value) dp) rev
    rw [digitCode_eq hk] at hexec hmirror
    exact ⟨t, _, rfl, hexec, hcall, hmirror⟩
  · intro s chip digit ch dp rev k h0 hn hd0 hd7 hk hwf
    have hpass : firstFailure [addressCheck s.n chip, coordCheck digit] = .none := by
      simp [firstFailure_addressCheck_inChain h0 hn, coordCheck, coordOk_eq_true hd0 hd7]
    obtain ⟨t, hexec, hcall, hmirror⟩ := validated_glyph h0 hd0 hd7 hwf hpass (glyphByte (charCode ch) dp) rev
    rw [charCode_eq hk] at hexec hmirror
    exact ⟨t, _, rfl, hexec, hcall, hmirror⟩

/-- Settles O51: the checks stand in this order, and a dropped call writes only `REJ` and the report. -/
theorem digitOperationsRejectInOrder : Obligations.DigitOperationsRejectInOrder := by
  refine ⟨fun s chip digit value ch dp rev hchip =>
      ⟨validated_chip_outOfChain hchip _ _, validated_chip_outOfChain hchip _ _⟩,
    fun s chip digit value ch dp rev h0 hn hdigit =>
      ⟨validated_coord_outOfRange h0 hn hdigit _ _, validated_coord_outOfRange h0 hn hdigit _ _⟩,
    fun s chip digit value dp rev h0 hn hd0 hd7 hvalue => ?value⟩
  case value =>
    have hfail : firstFailure [addressCheck s.n chip, coordCheck digit, valueCheck 15 value] = .invalidValue := by
      simp [firstFailure_addressCheck_inChain h0 hn, coordCheck, coordOk_eq_true hd0 hd7, valueCheck,
        valueOk_eq_false hvalue]
    exact validated_dropped hfail (by decide) _ s

end Sys2Proof.Machine
end

section
/-! What a public operation that passed its checks may rely on, and that `REJ` holds what it reports (43_host_ops.md
section 5, 60_exceptions.md section 1). -/

namespace Sys2Proof.Machine

/-! ## What passed checks say -/

/-- Checks that all pass: the first does and so do the others. -/
theorem firstFailure_cons_eq_none {ok : Bool} {kind : RejKind} {rest : List (Bool × RejKind)} (hkind : kind ≠ .none)
    (hpass : firstFailure ((ok, kind) :: rest) = .none) : ok = true ∧ firstFailure rest = .none := by
  cases ok with
  | true => exact ⟨rfl, hpass⟩
  | false => exact absurd hpass hkind

theorem chip_of_passed {n : Nat} {chip : Int} {rest : List (Bool × RejKind)}
    (hpass : firstFailure (addressCheck n chip :: rest) = .none) : 0 ≤ chip ∧ chip < n ∧ firstFailure rest = .none := by
  obtain ⟨hok, hrest⟩ := firstFailure_cons_eq_none (by decide) hpass
  obtain ⟨h0, hn⟩ := of_decide_eq_true hok
  exact ⟨h0, hn, hrest⟩

theorem chip_lt_of_passed {n : Nat} {chip : Int} {rest : List (Bool × RejKind)}
    (hpass : firstFailure (addressCheck n chip :: rest) = .none) : chip.toNat < n := by
  obtain ⟨h0, hn, -⟩ := chip_of_passed hpass
  omega

theorem row_lt_of_passed {n : Nat} {chip k : Int} {rest : List (Bool × RejKind)}
    (hpass : firstFailure (addressCheck n chip :: coordCheck k :: rest) = .none) : k.toNat < 8 := by
  obtain ⟨-, -, hcoord⟩ := chip_of_passed hpass
  obtain ⟨hok, -⟩ := firstFailure_cons_eq_none (by decide) hcoord
  obtain ⟨h0, h7⟩ := of_decide_eq_true hok
  omega

/-! ## The report -/

/-- The state reports to the caller the kind that `REJ` holds. -/
def State.Reported (s : State) : Prop := s.ret = some ⟨s.rej, none⟩

theorem validated_reported {checks : List (Bool × RejKind)} {act : State → State} {s t : State}
    (hact : firstFailure checks = .none → (act s).rej = .none) (h : validated checks act s = .next t) : t.Reported := by
  obtain ⟨hpass, hdone⟩ | ⟨-, hdropped⟩ := validated_cases checks act s
  · cases hdone.symm.trans h
    rw [State.Reported, State.setRet_rej, hact hpass, State.setRet_ret]
  · cases hdropped.symm.trans h
    rfl

/-- A `WR` to the chip an operation has checked is not dropped. -/
theorem registerWrite_rej_of_passed {s : State} {chip : Int} {rest : List (Bool × RejKind)}
    (hpass : firstFailure (addressCheck s.n chip :: rest) = .none) (op d : Byte) :
    (registerWrite chip op d s).rej = .none := by
  obtain ⟨h0, -, -⟩ := chip_of_passed hpass
  exact Int.toNat_of_nonneg h0 ▸ registerWrite_rej (chip_lt_of_passed hpass) op d

theorem hostGetRow_value {chip row : Int} {s t : State} (h : hostGetRow chip row s = .next t) :
    ∃ v, t = s.setRet ⟨.none, some v⟩ := by
  unfold hostGetRow at h
  split at h <;> cases h
  exact ⟨_, rfl⟩

theorem hostGetLed_value {chip row col : Int} {s t : State} (h : hostGetLed chip row col s = .next t) :
    ∃ v, t = s.setRet ⟨.none, some v⟩ := by
  unfold hostGetLed at h
  split at h <;> cases h
  exact ⟨_, rfl⟩

/-- A public operation returns a value, or reports what `REJ` holds (R132, R143, R144, R153). -/
theorem hostExec_value_or_reported {op : HostOp} {s t : State} (h : hostExec op s = .next t) :
    (∃ v, t = s.setRet ⟨.none, some v⟩) ∨ t.Reported := by
  cases op with
  | construct p1 p2 p3 chipCount =>
    cases (constructResetsAndBoots s p1 p2 p3 chipCount).symm.trans h
    exact .inr rfl
  | getChipCount => cases h; exact .inl ⟨_, rfl⟩
  | setCommonAnode b => cases h; exact .inr rfl
  | getRow chip row => exact .inl (hostGetRow_value h)
  | getLed chip row col => exact .inl (hostGetLed_value h)
  | shutdown chip enter => exact .inr (validated_reported (registerWrite_rej_of_passed · _ _) h)
  | setScanLimit chip limit => exact .inr (validated_reported (registerWrite_rej_of_passed · _ _) h)
  | setIntensity chip value => exact .inr (validated_reported (registerWrite_rej_of_passed · _ _) h)
  | clearDisplay chip => exact .inr (validated_reported (fun hpass => clearRows_rej (chip_lt_of_passed hpass)) h)
  | setLed chip row col on =>
    exact .inr (validated_reported (fun hpass => setPixel_rej (chip_lt_of_passed hpass) _ _ _) h)
  | setRow chip row value =>
    exact .inr (validated_reported (fun hpass => storeRow_rej (chip_lt_of_passed hpass) _ _ _) h)
  | setColumn chip col value =>
    exact .inr (validated_reported (fun hpass => columnPixels_rej (chip_lt_of_passed hpass) _ _) h)
  | setDigit chip digit value dp reverse =>
    exact .inr (validated_reported (fun hpass => storeRow_rej (chip_lt_of_passed hpass) _ _ _) h)
  | setChar chip digit ch dp reverse =>
    exact .inr (validated_reported (fun hpass => storeRow_rej (chip_lt_of_passed hpass) _ _ _) h)

/-- Settles O37: an operation that returns no value reports `REJ`, and a command is carried out or dropped. -/
theorem rejectionReportsItsKind : Obligations.RejectionReportsItsKind := by
  refine ⟨fun op s t kind h hret => ?operation, fun i s t h hcmd => ?command, rfl, rfl, rfl, rfl⟩
  case operation =>
    obtain ⟨v, rfl⟩ | hreported := hostExec_value_or_reported h
    · cases hret
    · rw [State.Reported, hret] at hreported
      cases hreported
      rfl
  case command =>
    obtain hnone | rfl := exec_rej_or_dropped h hcmd
    · exact .inl hnone
    · exact .inr rfl

end Sys2Proof.Machine
end

section
/-! The machine invariant: it holds after reset, every step keeps it, and from it a step stops only by name
(10_state.md sections 2 to 4, 42_serializer.md section 1). -/

namespace Sys2Proof.Machine

/-! ## The bus -/

/-- A request's frame addresses at most its own chip (R115). -/
theorem IsWireFrame.atMostOnePair {n : Nat} {frame : List Byte} (h : IsWireFrame n frame) : AtMostOnePair n frame := by
  obtain ⟨c, op, d, rfl⟩ := h
  have haddressed :
      (List.range n).filter (fun k => committedPair (wireFrame n c op d) k ≠ some (0x00#8, 0x00#8)) ⊆ [c] := by
    intro k hk
    obtain ⟨hmem, hne⟩ := List.mem_filter.1 hk
    rw [committedPair_wireFrame (List.mem_range.1 hmem)] at hne
    by_contra hkc
    rw [if_neg (fun h => hkc (List.mem_singleton.2 h))] at hne
    exact absurd hne (by decide)
  exact ((List.nodup_range.filter _).subperm haddressed).length_le

theorem busFramed_append {n : Nat} {before after : List BusEvent} (h : BusFramed n before)
    (hafter : AppendsFrames n before after) : BusFramed n after := by
  obtain ⟨hbefore, hframes⟩ := h
  obtain ⟨frames, rfl, -, hnew⟩ := hafter
  rw [BusFramed, framesOf_append_flatMap_bracketed]
  refine ⟨?_, fun f hf => ?_⟩
  · rw [List.flatMap_append, ← hbefore]
  · obtain hf | hf := List.mem_append.1 hf
    · exact hframes f hf
    · exact ⟨(hnew f hf).length_eq, (hnew f hf).atMostOnePair⟩

/-! ## What keeps the invariant

`s.ready.Inv` is the invariant of a state in which a command or an operation may be running (R19). -/

/-- Select high, the mirror as before and whole frames more on the bus. -/
theorem inv_of_appendsFrames {s t : State} (h : s.ready.Inv) (hn : t.n = s.n) (hsel : t.sel = true)
    (hmirror : t.mirror = s.mirror) (hbus : AppendsFrames s.n s.bus t.bus) : t.ready.Inv where
  count := by rw [State.ready_n, hn]; exact h.count
  select := hsel
  idle := rfl
  framed := by rw [State.ready_n, State.ready_bus, hn]; exact busFramed_append h.framed hbus
  mirrorWf := by rw [State.ready_mirror, hmirror]; exact h.mirrorWf
  mirrorIn := by rw [State.ready_mirror, State.ready_n, hmirror, hn]; exact h.mirrorIn

section
variable {s : State} (h : s.ready.Inv)
include h

theorem setRej_inv (kind : RejKind) : (s.setRej kind).ready.Inv :=
  inv_of_appendsFrames h rfl h.select rfl (appendsFrames_refl ..)

theorem setRet_inv (r : Ret) : (s.setRet r).ready.Inv :=
  inv_of_appendsFrames h rfl h.select rfl (appendsFrames_refl ..)

theorem registerWrite_inv (addr : Int) (op d : Byte) : (registerWrite addr op d s).ready.Inv :=
  inv_of_appendsFrames h (registerWrite_n addr op d s) (registerWrite_sel (s := s) h.select addr op d)
    (registerWrite_mirror addr op d s) (registerWrite_appendsFrames addr op d s)

/-- An instruction that completes keeps the invariant. -/
theorem exec_inv {i : Instr} {t : State} (hexec : exec i s = .next t) : t.ready.Inv := by
  obtain ⟨hn, hmirror, -, -, -, hsel⟩ := instructionsLeaveCountAndHostAlone i s t hexec
  exact inv_of_appendsFrames h hn (hsel h.select) hmirror (exec_appendsFrames hexec)

/-- A byte stored at a place of the mirror keeps it canonical and inside its `8N` bytes (R32). -/
theorem setMirror_inv {c r : Nat} (hc : c < s.n) (hr : r < 8) (v : Byte) : (s.setMirror c r v).ready.Inv where
  count := h.count
  select := h.select
  idle := rfl
  framed := h.framed
  mirrorWf := Memory.wf_write _ _ _ h.mirrorWf
  mirrorIn := fun cell hcell => by
    obtain hkey | hold := Memory.mem_write _ _ _ _ hcell
    · rw [hkey, State.ready_n, State.setMirror_n, mirrorAddr]
      omega
    · exact h.mirrorIn cell hold

theorem storeRow_inv {c r : Nat} (hc : c < s.n) (hr : r < 8) (stored sent : Byte) :
    (storeRow c r stored sent s).ready.Inv :=
  registerWrite_inv (setMirror_inv h hc hr stored) _ _ _

theorem setPixel_inv {c r : Nat} (hc : c < s.n) (hr : r < 8) (k : Nat) (on : Bool) :
    (setPixel c r k on s).ready.Inv := by
  rw [setPixel_eq_storeRow]
  exact storeRow_inv h hc hr _ _

/-- Actions one after another that keep the chip count and the invariant. -/
theorem foldl_inv {α : Type} {act : α → State → State} (hcount : ∀ a t, (act a t).n = t.n)
    (hact : ∀ a t, t.n = s.n → t.ready.Inv → (act a t).ready.Inv) (as : List α) :
    (as.foldl (fun t a => act a t) s).ready.Inv := by
  induction as generalizing s with
  | nil => exact h
  | cons a as ih =>
    exact ih (s := act a s) (hact a s rfl h) fun b t ht => hact b t (ht.trans (hcount a s))

theorem clearRows_inv {c : Nat} (hc : c < s.n) : (clearRows c s).ready.Inv :=
  foldl_inv h (fun _ _ => storeRow_n ..) (fun r _ ht hinv => storeRow_inv hinv (ht ▸ hc) r.isLt _ _) rows

theorem columnPixels_inv {c : Nat} (hc : c < s.n) (k : Nat) (value : Byte) : (columnPixels c k value s).ready.Inv :=
  foldl_inv h (fun _ _ => setPixel_n ..) (fun r _ ht hinv => setPixel_inv hinv (ht ▸ hc) r.isLt _ _) rows

theorem bootChip_inv (c : Nat) : (bootChip c s).ready.Inv :=
  registerWrite_inv (registerWrite_inv h _ _ _) _ _ _

theorem boot_inv : (boot s).ready.Inv :=
  foldl_inv h (fun _ _ => (registerWrite_n ..).trans (registerWrite_n ..)) (fun c _ _ hinv => bootChip_inv hinv c)
    (List.range s.n)

theorem validated_inv {checks : List (Bool × RejKind)} {act : State → State} {t : State}
    (hact : firstFailure checks = .none → (act s).ready.Inv) (hcall : validated checks act s = .next t) :
    t.ready.Inv := by
  obtain ⟨hpass, hdone⟩ | ⟨-, hdropped⟩ := validated_cases checks act s
  · cases hdone.symm.trans hcall
    exact setRet_inv (hact hpass) _
  · cases hdropped.symm.trans hcall
    exact setRet_inv (setRej_inv h _) _

end

/-- An empty bus and an empty mirror meet the invariant (R24, R25). -/
theorem resetWith_inv (ncfg : Int) (accInit : Vector Byte 8) : (State.resetWith ncfg accInit).Inv where
  count := clampCount_bounds ncfg
  select := rfl
  idle := rfl
  framed := ⟨rfl, List.forall_mem_nil _⟩
  mirrorWf := rfl
  mirrorIn := List.forall_mem_nil _

/-- Settles O39: the model's configuration is one of those `State.resetWith` takes. -/
theorem resetMeetsInvariant : Obligations.ResetMeetsInvariant :=
  ⟨resetWith_inv, resetWith_inv _ _⟩

/-- The state `construct` boots from meets the invariant, whatever the host has still to present. -/
theorem hostConstruct_inv {s t : State} {chipCount : Int} (hcall : hostConstruct chipCount s = .next t) :
    t.ready.Inv := by
  have hreset : ({ State.resetWith chipCount Config.accInit with
      busy := s.busy, pending := s.pending } : State).ready.Inv :=
    inv_of_appendsFrames (s := State.resetWith chipCount Config.accInit) (resetWith_inv _ _) rfl rfl rfl
      (appendsFrames_refl ..)
  cases hcall
  exact setRet_inv (boot_inv hreset) _

/-- A public operation that answers keeps the invariant. -/
theorem hostExec_inv {s t : State} (h : s.ready.Inv) {op : HostOp} (hcall : hostExec op s = .next t) : t.ready.Inv := by
  cases op with
  | construct p1 p2 p3 chipCount => exact hostConstruct_inv hcall
  | getChipCount => cases hcall; exact setRet_inv h _
  | setCommonAnode b => cases hcall; exact setRet_inv (exec_inv h (i := .mode b) rfl) _
  | getRow chip row =>
    obtain ⟨v, rfl⟩ := hostGetRow_value hcall
    exact setRet_inv h _
  | getLed chip row col =>
    obtain ⟨v, rfl⟩ := hostGetLed_value hcall
    exact setRet_inv h _
  | shutdown chip enter => exact validated_inv h (fun _ => registerWrite_inv h _ _ _) hcall
  | setScanLimit chip limit => exact validated_inv h (fun _ => registerWrite_inv h _ _ _) hcall
  | setIntensity chip value => exact validated_inv h (fun _ => registerWrite_inv h _ _ _) hcall
  | clearDisplay chip => exact validated_inv h (fun hpass => clearRows_inv h (chip_lt_of_passed hpass)) hcall
  | setLed chip row col on =>
    exact validated_inv h (fun hpass => setPixel_inv h (chip_lt_of_passed hpass) (row_lt_of_passed hpass) _ _) hcall
  | setRow chip row value =>
    exact validated_inv h (fun hpass => storeRow_inv h (chip_lt_of_passed hpass) (row_lt_of_passed hpass) _ _) hcall
  | setColumn chip col value =>
    exact validated_inv h (fun hpass => columnPixels_inv h (chip_lt_of_passed hpass) _ _) hcall
  | setDigit chip digit value dp reverse =>
    exact validated_inv h (fun hpass => storeRow_inv h (chip_lt_of_passed hpass) (row_lt_of_passed hpass) _ _) hcall
  | setChar chip digit ch dp reverse =>
    exact validated_inv h (fun hpass => storeRow_inv h (chip_lt_of_passed hpass) (row_lt_of_passed hpass) _ _) hcall

theorem runPresented_inv {s t : State} (h : s.ready.Inv) {p : Presented} (hrun : runPresented p s = .next t) :
    t.ready.Inv := by
  cases p with
  | call op => exact hostExec_inv h hrun
  | command e =>
    cases hdecode : decode e with
    | ok i => exact exec_inv h ((runPresented_of_decode hdecode s).symm.trans hrun)
    | error why =>
      cases (runPresented_of_reserved hdecode s).symm.trans hrun
      exact setRej_inv h _

/-- Settles O38: the block waited, or what it carried out kept the invariant and it is ready again. -/
theorem stepKeepsInvariant : Obligations.StepKeepsInvariant := by
  intro s t h hstep
  obtain ⟨-, rfl⟩ | ⟨p, rest, u, -, -, hrun, rfl⟩ := step_next hstep
  · exact h
  · have haccepted : (s.accept rest).ready.Inv :=
      ⟨h.count, h.select, rfl, h.framed, h.mirrorWf, h.mirrorIn⟩
    exact runPresented_inv haccepted hrun

/-! ## Where a step stops -/

/-- An instruction completes, or is a request outside the chain (R119). -/
theorem exec_next_or_outOfChain (i : Instr) (s : State) :
    (∃ t, exec i s = .next t) ∨
      ∃ c op d, i = .xmit c op d ∧ (c < 0 ∨ (s.n : Int) ≤ c) ∧ exec i s = .refused .xmitChipRange := by
  obtain ⟨m, rfl⟩ | ⟨c, op, d, rfl⟩ | ⟨addr, op, d, hwrite⟩ := instr_cases i
  · exact .inl ⟨_, rfl⟩
  · by_cases hc : c < 0 ∨ (s.n : Int) ≤ c
    · exact .inr ⟨c, op, d, rfl, hc, exec_xmit_outOfChain hc op d⟩
    · exact .inl ⟨_, xmitCompletes s c op d (by omega) (by omega)⟩
  · exact .inl ⟨_, exec_of_asWrite hwrite s⟩

theorem validated_next (checks : List (Bool × RejKind)) (act : State → State) (s : State) :
    ∃ t, validated checks act s = .next t := by
  obtain ⟨-, hdone⟩ | ⟨-, hdropped⟩ := validated_cases checks act s
  · exact ⟨_, hdone⟩
  · exact ⟨_, hdropped⟩

/-- A public operation answers, or is a getter with an argument out of range (R143, R144). -/
theorem hostExec_next_or_getterRange (op : HostOp) (s : State) :
    (∃ t, hostExec op s = .next t) ∨
      hostExec op s = .refused .getterRange ∧
        ((∃ chip row, op = .getRow chip row ∧ (chip < 0 ∨ (s.n : Int) ≤ chip ∨ row < 0 ∨ 7 < row)) ∨
          ∃ chip row col, op = .getLed chip row col ∧
            (chip < 0 ∨ (s.n : Int) ≤ chip ∨ row < 0 ∨ 7 < row ∨ col < 0 ∨ 7 < col)) := by
  obtain ⟨-, hgetRow, hgetLed, hgetRowOut, hgetLedOut⟩ := gettersAnswer
  cases op with
  | construct | getChipCount | setCommonAnode => exact .inl ⟨_, rfl⟩
  | getRow chip row =>
    by_cases hout : chip < 0 ∨ (s.n : Int) ≤ chip ∨ row < 0 ∨ 7 < row
    · exact .inr ⟨hgetRowOut s chip row hout, .inl ⟨chip, row, rfl, hout⟩⟩
    · exact .inl ⟨_, hgetRow s chip row (by omega) (by omega) (by omega) (by omega)⟩
  | getLed chip row col =>
    by_cases hout : chip < 0 ∨ (s.n : Int) ≤ chip ∨ row < 0 ∨ 7 < row ∨ col < 0 ∨ 7 < col
    · exact .inr ⟨hgetLedOut s chip row col hout, .inr ⟨chip, row, col, rfl, hout⟩⟩
    · exact .inl ⟨_, hgetLed s chip row col (by omega) (by omega) (by omega) (by omega) (by omega) (by omega)⟩
  | shutdown | setScanLimit | setIntensity | clearDisplay | setLed | setRow | setColumn | setDigit | setChar =>
    exact .inl (validated_next _ _ s)

/-- Settles O40: a request is the only thing that decodes to `XMIT`, and the block is idle in the invariant. -/
theorem stepStopsOnlyByName : Obligations.StepStopsOnlyByName := by
  intro s h
  cases hp : s.pending with
  | nil => exact .inl ⟨s, step_of_pending_nil hp⟩
  | cons p rest =>
    rw [step_of_idle h.idle hp]
    cases p with
    | command e =>
      cases hdecode : decode e with
      | error why => exact .inl ⟨_, by rw [runPresented_of_reserved hdecode]; rfl⟩
      | ok i =>
        rw [runPresented_of_decode hdecode]
        obtain ⟨t, hexec⟩ | ⟨c, op, d, rfl, hc, hexec⟩ := exec_next_or_outOfChain i (s.accept rest)
        · exact .inl ⟨t.ready, by rw [hexec]; rfl⟩
        · obtain ⟨-, rfl⟩ := encodeOfDecode e _ hdecode
          exact .inr (.inl ⟨by rw [hexec]; rfl, c, op, d, rest, rfl, hc⟩)
    | call op =>
      change (∃ t, completed (hostExec op (s.accept rest)) = .next t) ∨ _
      obtain ⟨t, hcall⟩ | ⟨hcall, ⟨chip, row, rfl, hout⟩ | ⟨chip, row, col, rfl, hout⟩⟩ :=
        hostExec_next_or_getterRange op (s.accept rest)
      · exact .inl ⟨t.ready, by rw [hcall]; rfl⟩
      · exact .inr (.inr (.inl ⟨congrArg completed hcall, chip, row, rest, rfl, hout⟩))
      · exact .inr (.inr (.inr ⟨congrArg completed hcall, chip, row, col, rest, rfl, hout⟩))

end Sys2Proof.Machine
end
